-- ==== Sys2Proof/Word.lean ====
section
/-! DEFINITION. The word types of the block and its two plain shapes: the port names and a fixed row of six things
(one per channel). Rules R6, R10, R21 of spec/. -/

namespace Sys2Proof

/-- A host command word on `cmd_data` (R50). -/
abbrev CmdWord := BitVec 16
/-- The 32-bit encoding of a micro-operation (R51, R52). -/
abbrev UopWord := BitVec 32
/-- A slot mask, or a port's 3-bit output slice; bit s is slot s (R26, R51). -/
abbrev Slice := BitVec 3
/-- A Braille pattern; bit i is dot i+1 (R10). -/
abbrev Pattern := BitVec 6

/-- The two output ports (R6). -/
inductive Port where
  | A
  | B
  deriving DecidableEq, Repr

/-- A row of six things, one per channel k = 0..5 (R6: six channels, a fixed structure). -/
structure Six (α : Type) where
  k0 : α
  k1 : α
  k2 : α
  k3 : α
  k4 : α
  k5 : α
  deriving DecidableEq, Repr

/-- Entry k of a row. -/
def Six.get {α : Type} (v : Six α) (k : Fin 6) : α :=
  match k with
  | 0 => v.k0
  | 1 => v.k1
  | 2 => v.k2
  | 3 => v.k3
  | 4 => v.k4
  | 5 => v.k5

/-- The row whose entry k is `f k`. -/
def Six.ofFn {α : Type} (f : Fin 6 → α) : Six α :=
  ⟨f 0, f 1, f 2, f 3, f 4, f 5⟩

/-- The row as a list, channel 0 first. -/
def Six.toList {α : Type} (v : Six α) : List α :=
  [v.k0, v.k1, v.k2, v.k3, v.k4, v.k5]

/-- The row of a list of exactly six things; any other list gives the row `d`. -/
def Six.ofList {α : Type} (d : Six α) : List α → Six α
  | [a, b, c, x, y, z] => ⟨a, b, c, x, y, z⟩
  | _ => d

/-- The six channel numbers in ascending order. -/
def channels : List (Fin 6) := [0, 1, 2, 3, 4, 5]

/-- The identity row: entry k is k. -/
def Six.identity : Six (Fin 6) := ⟨0, 1, 2, 3, 4, 5⟩

end Sys2Proof
end

