-- ==== Sys2Proof/Machine/Operands.lean ====
section
/-! DEFINITION. Operand assembly (R53): every field a command or micro-operation word holds, read once here. No field
is sign-extended, scaled or shifted. -/

namespace Sys2Proof.Machine

/-- RENDER_FRAME's pattern, `cmd_data[5:0]` (R53). -/
def patternField (w : CmdWord) : Pattern := w.extractLsb' 0 6

/-- The port field P, bit 24: 0 is A, 1 is B (R51). -/
def portField (u : UopWord) : Port :=
  if u.getLsbD 24 then .B else .A

/-- The slot mask M, bits 2:0 (R51). -/
def maskField (u : UopWord) : Slice := u.extractLsb' 0 3

/-- WAIT's operand N, bits 15:0, unsigned ticks (R52). -/
def waitField (u : UopWord) : Nat := (u.extractLsb' 0 16).toNat

/-- The bit that stands for a port in the P field (R51). -/
def portBit : Port → BitVec 1
  | .A => 0#1
  | .B => 1#1

end Sys2Proof.Machine
end

