-- ==== Sys2Proof/Syntax.lean ====
section
/-! DEFINITION. The instructions: one constructor per row of spec/opcode_table.json (R54). RENDER_FRAME is the host's
one command; the other four are the micro-operations of the frame stream. -/

namespace Sys2Proof

/-- An instruction with its operands as R53 assembles them. A pattern, a port or a mask has exactly the width of its
field; WAIT's operand is a number of ticks, which WellFormed.lean holds to the range of its field (R52). Bits 11:6 of a
RENDER_FRAME word are no part of it (R56). -/
inductive Instr where
  /-- RENDER_FRAME: render one frame of a pattern (R72). -/
  | renderFrame (pat : Pattern)
  /-- PSET: set the masked bits of a port (R95). -/
  | pset (p : Port) (m : Slice)
  /-- PCLR: clear the masked bits of a port (R96). -/
  | pclr (p : Port) (m : Slice)
  /-- PREAD: read the masked bits of a port (R97). -/
  | pread (p : Port) (m : Slice)
  /-- WAIT: wait n ticks of 1 µs (R98). -/
  | wait (n : Nat)
  deriving DecidableEq, Repr

end Sys2Proof
end

