-- ==== Sys2Proof/WellFormed.lean ====
section
/-! DEFINITION. Well-formedness: of an instruction, whether its format can hold its operands (R50 to R52); and of an
assembler line, whose operands are plain numbers (R59: "An operand outside its range is an assembly error"). A
configuration is checked in Machine/Elaborate.lean (R8). -/

namespace Sys2Proof

/-- The instruction has a word: every operand fits its field. Only WAIT's can fail to, and only in the stream of a block
elaborated with registers wider than 16 bits (R52, R77; log entry 13). -/
def Instr.wellFormed : Instr → Bool
  | .renderFrame _ => true
  | .pset _ _ => true
  | .pclr _ _ => true
  | .pread _ _ => true
  | .wait n => n ≤ 65535

/-- One line of assembler source after its text is read: the five forms of R59 and the four pseudo-instructions of
R60. -/
inductive AsmLine where
  | render (pat : Nat)
  | pset (p : Port) (m : Nat)
  | pclr (p : Port) (m : Nat)
  | pread (p : Port) (m : Nat)
  | wait (n : Nat)
  | rest
  | raiseAll
  | braille (c : Char)
  | nop
  deriving DecidableEq, Repr

/-- The operand ranges of R59. -/
def AsmLine.wellFormed : AsmLine → Bool
  | .render pat => pat ≤ 63
  | .pset _ m => m ≤ 7
  | .pclr _ m => m ≤ 7
  | .pread _ m => m ≤ 7
  | .wait n => n ≤ 65535
  | .rest => true
  | .raiseAll => true
  | .braille _ => true
  | .nop => true

end Sys2Proof
end

