-- ==== Sys2Proof/Decode.lean ====
section
/-! DEFINITION. Decoding, encoding and assembling. The channel a word arrives on gives its format (R49): a host word is
`CMD16`, a frame-stream or test-bench word is `UOP32`. Written from the opcode map of R54; total on every word. -/

namespace Sys2Proof

/-- A word together with the channel it arrives on (R49). -/
inductive BusWord where
  /-- A host command word on `cmd_data`. -/
  | cmd (w : CmdWord)
  /-- A micro-operation word. -/
  | uop (u : UopWord)
  deriving DecidableEq, Repr

/-- Why a word is no instruction. -/
inductive DecodeError where
  /-- A `CMD16` word whose OP is not 0b0001 (R55). -/
  | reservedCommand (w : CmdWord)
  /-- A `UOP32` word with a reserved OP or a nonzero must-be-0 bit (R57). -/
  | reservedMicroOp (u : UopWord)
  deriving DecidableEq, Repr

/-- A `CMD16` word is RENDER_FRAME if `(w & 0xF000) = 0x1000`, whatever bits 11:6 hold (R54, R56). -/
def decodeCmd (w : CmdWord) : Except DecodeError Instr :=
  if w &&& 0xF000#16 = 0x1000#16 then .ok (.renderFrame (Machine.patternField w))
  else .error (.reservedCommand w)

/-- A `UOP32` word is the row whose `(u & mask) = match`; one that matches no row is reserved (R54, R57). -/
def decodeUop (u : UopWord) : Except DecodeError Instr :=
  if u &&& 0xFEFFFFF8#32 = 0x10000000#32 then .ok (.pset (Machine.portField u) (Machine.maskField u))
  else if u &&& 0xFEFFFFF8#32 = 0x20000000#32 then .ok (.pclr (Machine.portField u) (Machine.maskField u))
  else if u &&& 0xFEFFFFF8#32 = 0x30000000#32 then .ok (.pread (Machine.portField u) (Machine.maskField u))
  else if u &&& 0xFFFF0000#32 = 0x40000000#32 then .ok (.wait (Machine.waitField u))
  else .error (.reservedMicroOp u)

/-- Decoding by channel (R49). -/
def decode : BusWord → Except DecodeError Instr
  | .cmd w => decodeCmd w
  | .uop u => decodeUop u

/-- The port form of `UOP32`: OP, three zeros, P, twenty-one zeros, M (R51). -/
def encodePortForm (op : BitVec 4) (p : Port) (m : Slice) : UopWord :=
  op ++ 0#3 ++ Machine.portBit p ++ 0#21 ++ m

/-- The word of a well-formed instruction, from the formats of R50 to R52; RENDER_FRAME's bits 11:6 are encoded as 0
(R59). -/
def encode : Instr → BusWord
  | .renderFrame pat => .cmd (0x1#4 ++ 0#6 ++ pat)
  | .pset p m => .uop (encodePortForm 0x1#4 p m)
  | .pclr p m => .uop (encodePortForm 0x2#4 p m)
  | .pread p m => .uop (encodePortForm 0x3#4 p m)
  | .wait n => .uop (0x4#4 ++ 0#12 ++ BitVec.ofNat 16 n)

/-- The instruction the decoder reads from a word numbered as spec/opcode_table.json numbers it. Up to 16 bits is a
host command word, up to 32 bits a micro-operation word (R49); no format is longer. A transfer is one parallel word,
so there is no byte order to apply (R36). DESIGN CHOICE (safe):
the channel is taken from the length, log entry 11. -/
def decodeTableWord (nbits w : Nat) : Option Instr :=
  if nbits ≤ 16 then
    match decodeCmd (BitVec.ofNat 16 w) with
    | .ok i => some i
    | .error _ => none
  else if nbits ≤ 32 then
    match decodeUop (BitVec.ofNat 32 w) with
    | .ok i => some i
    | .error _ => none
  else none

/-- The letter table of I-GK1, used only by the `braille` pseudo-instruction (R60). PRESUMED (safe): general knowledge,
not in the spec's source, and outside the block, log entry 23. -/
def brailleTable : List (Char × Pattern) :=
  [('a', 0x01#6), ('b', 0x03#6), ('c', 0x09#6), ('d', 0x19#6), ('e', 0x11#6), ('f', 0x0B#6), ('g', 0x1B#6)] ++
  [('h', 0x13#6), ('i', 0x0A#6), ('j', 0x1A#6), ('k', 0x05#6), ('l', 0x07#6), ('m', 0x0D#6), ('n', 0x1D#6)] ++
  [('o', 0x15#6), ('p', 0x0F#6), ('q', 0x1F#6), ('r', 0x17#6), ('s', 0x0E#6), ('t', 0x1E#6), ('u', 0x25#6)] ++
  [('v', 0x27#6), ('w', 0x3A#6), ('x', 0x2D#6), ('y', 0x3D#6), ('z', 0x35#6)]

/-- `E(c)`: the letter's pattern, either case; 0 for any other character (R60). -/
def brailleLetter (c : Char) : Pattern :=
  match brailleTable.find? (fun e => e.1 == c.toLower) with
  | some e => e.2
  | none => 0#6

/-- The instruction an assembler line stands for (R59, R60); none where an operand is out of range, an assembly
error. -/
def AsmLine.instr (l : AsmLine) : Option Instr :=
  if l.wellFormed then
    match l with
    | .render pat => some (.renderFrame (BitVec.ofNat 6 pat))
    | .pset p m => some (.pset p (BitVec.ofNat 3 m))
    | .pclr p m => some (.pclr p (BitVec.ofNat 3 m))
    | .pread p m => some (.pread p (BitVec.ofNat 3 m))
    | .wait n => some (.wait n)
    | .rest => some (.renderFrame 0#6)
    | .raiseAll => some (.renderFrame 0b111111#6)
    | .braille c => some (.renderFrame (brailleLetter c))
    | .nop => some (.wait 0)
  else none

/-- The word an assembler line gives (R59). -/
def AsmLine.assemble (l : AsmLine) : Option BusWord :=
  l.instr.map encode

end Sys2Proof
end

