-- ==== Sys2Proof/Config.lean ====
section
/-! DEFINITION. The parameters fixed at elaboration (R6, R7), their reference values, and the one open constant.
The constraints of R8 are checked in Machine/Elaborate.lean. -/

namespace Sys2Proof

/-- One output line: a slot of a port (R68). -/
structure Line where
  port : Port
  slot : Fin 3
  deriving DecidableEq, Repr

/-- The parameters of R7 a model takes as an argument. `CLK_PER_US` is `Config.clkPerUs`; `PORT_W` and `SLOT_POS` lie
outside the block (D17; log entry 18). -/
structure Config where
  /-- `SERVO_MIN_US`: pulse width at angle 0, µs. -/
  servoMinUs : Nat
  /-- `SERVO_MAX_US`: pulse width at angle `ANGLE_MAX`, µs. -/
  servoMaxUs : Nat
  /-- `PERIOD_US`: frame period, µs. -/
  periodUs : Nat
  /-- `ANGLE_MAX`: top of the angle range, degrees. -/
  angleMax : Nat
  /-- `ANGLE_ON`: angle for a set pattern bit. -/
  angleOn : Nat
  /-- `ANGLE_OFF`: angle for a clear pattern bit. -/
  angleOff : Nat
  /-- `WIRING`: pattern bit k drives line `wiring.get k`. -/
  wiring : Six Line
  /-- `TIE_ORDER`: among equal durations the slot of smaller rank is cleared first, and equal ranks go by slot index.
  The reference order is by slot index (D12). DESIGN CHOICE (safe): the form of the parameter, log entry 14. -/
  tieRank : Six Nat
  /-- `DUR_W`: width of each duration register, bits. -/
  durW : Nat
  /-- `T_W`: width of the frame tick counter, bits. -/
  tW : Nat
  deriving DecidableEq, Repr

/-- The default `WIRING` of R68: bits 0..2 on port B slots 0..2, bits 3..5 on port A slots 0..2 (D16). -/
def Config.referenceWiring : Six Line :=
  ⟨⟨.B, 0⟩, ⟨.B, 1⟩, ⟨.B, 2⟩, ⟨.A, 0⟩, ⟨.A, 1⟩, ⟨.A, 2⟩⟩

/-- The defaults of R7. UNVERIFIED (unsafe): the spec's source calls its literals unaudited, log entry 21. -/
def Config.reference : Config where
  servoMinUs := 600
  servoMaxUs := 2400
  periodUs := 20000
  angleMax := 180
  angleOn := 90
  angleOff := 0
  wiring := Config.referenceWiring
  tieRank := ⟨0, 1, 2, 3, 4, 5⟩
  durW := 16
  tW := 16

/-- What a duration register of `DUR_W` bits holds of a value written to it (R21). No write truncates under R8 (R29). -/
def Config.durReg (c : Config) (n : Nat) : Nat := n % 2 ^ c.durW

/-- What the frame tick counter of `T_W` bits holds of a value written to it (R21). No write truncates under R8 (R29). -/
def Config.tReg (c : Config) (n : Nat) : Nat := n % 2 ^ c.tW

/-- `CLK_PER_US` - 1: a free value, because the spec leaves the parameter OPEN (D3; log entry 12). -/
opaque Config.prescaleTop : Nat

/-- `CLK_PER_US`: clock cycles per 1 µs tick, at least one (R7, R110). -/
def Config.clkPerUs : Nat := Config.prescaleTop + 1

end Sys2Proof
end

