-- ==== Sys2Proof/Machine/State.lean ====
section
/-! DEFINITION. The state of the machine as plain data: the block's architectural fields (R21), the hidden sequencer
state (R30), the elaboration parameters (R7), and the model's own fields that carry the host and the test bench (R61,
R74, R94, R109). And the reset state (R115), the faults and the refusals. -/

namespace Sys2Proof.Machine

/-- A channel event as a caller of `run_frame` gives it: the duration is any natural number (R74). -/
structure RawEvent where
  port : Port
  mask : Slice
  dur : Nat
  deriving DecidableEq, Repr

/-- A channel-event slot `ev[k]`: the clamped event the block stores, its duration in `DUR_W` bits (R21, R25). -/
structure ChannelEvent where
  port : Port
  mask : Slice
  dur : Nat
  deriving DecidableEq, Repr

/-- What a move of the host does once its interval has come. No move writes the lines: R43, R109. -/
inductive HostAct where
  /-- No command in one interval (`cmd_valid` = 0). -/
  | pause
  /-- Offer a command word and keep it offered until it is accepted (R61, R90). -/
  | offer (w : CmdWord)
  /-- Offer a command word and withdraw it if it is not accepted by interval `last`; the interval after a withdrawal
  offers nothing (R109). -/
  | offerUntil (last : Nat) (w : CmdWord)
  /-- The harness entry: start a frame from six raw events in place of `expand pattern`, kept offered like a command
  (R74). -/
  | harness (evs : Six RawEvent)
  deriving DecidableEq, Repr

/-- A move of the host, made no earlier than interval `start` (R61: `@n`). -/
structure HostMove where
  start : Nat
  act : HostAct
  deriving DecidableEq, Repr

/-- The machine's state. During tick interval I_n it is the block state S_n (R13) with the host's pending moves. -/
structure State where
  /-- The elaboration parameters (R7); no step changes them (R19). -/
  cfg : Config
  /-- A frame is in progress in this interval (R22). -/
  busy : Bool
  /-- The frame-relative tick index of this interval, `T_W` bits (R23). -/
  t : Nat
  /-- The pattern captured at the last frame start (R24). -/
  pat : Pattern
  /-- The six channel-event slots (R25). -/
  ev : Six ChannelEvent
  /-- The output slice of port A (R26). -/
  portA : Slice
  /-- The output slice of port B (R26). -/
  portB : Slice
  /-- A frame ended at the boundary that began this interval (R27). -/
  done : Bool
  /-- Index of the next micro-operation in the 19-entry frame stream; 19 when none is left (R30). -/
  upc : Fin 20
  /-- The duration of the last event cleared, `DUR_W` bits (R30, R76). -/
  elapsed : Nat
  /-- σ: the slots by ascending duration (R30, R75). -/
  sigma : Six (Fin 6)
  /-- The clock prescaler (R30, R110). -/
  pre : Nat
  /-- The frame-relative time τ of the sequencer: the instant the micro-operation at `upc` is performed (R78, R98).
  The model's own field, log entry 6. -/
  tau : Nat
  /-- The result of the last PREAD, for the test bench that issued it (R97). The model's own field, log entry 7. -/
  result : Slice
  /-- The index n of this interval I_n (R13). The model's own field, log entry 2. -/
  now : Nat
  /-- The intervals in which the host holds `rst` = 1 (R31, R61). The model's own field, log entry 2. -/
  resetAt : List Nat
  /-- The pending moves of the host, in order (R61, R109). The model's own field, log entry 2. -/
  host : List HostMove
  /-- The micro-operation words a test bench has still to run on their own (R94); none while the block is in service,
  where nothing but its own stream writes the lines (R43). The model's own field, log entry 9. -/
  bench : Option (List UopWord)
  deriving DecidableEq, Repr

/-- No constructor: the block raises no exception and every operation is total (R100), so no step of this model
faults. -/
inductive Fault
  deriving DecidableEq, Repr

/-- Why a step gives no next state. -/
inductive Refusal where
  /-- An instruction that has no meaning yet; raised only by an arm of `exec`. Safe: the machine stops. No arm raises
  it in this model. -/
  | notModelled (mnemonic : String)
  /-- `step`, where the parameters break R8: the spec refuses to build such a machine (R102). Safe. -/
  | invalidConfiguration
  /-- `step`, where a test bench presents a reserved `UOP32` word, which a model must refuse (R57). Safe: the block
  itself never generates one. -/
  | reservedMicroOp (u : UopWord)
  deriving DecidableEq, Repr

/-- What an unwritten event slot holds. DESIGN CHOICE (unsafe): the spec gives no value and nothing reads it (R28),
log entry 4. -/
def ChannelEvent.unwritten : ChannelEvent := ⟨.A, 0#3, 0⟩

/-- `ResetState` of R115 for a machine elaborated with `cfg`, in the host's interval `now` with the host's schedule.
The event slots and σ, which R115 leaves unspecified, hold the values of log entries 4 and 5. -/
def State.resetFor (cfg : Config) (now : Nat) (resetAt : List Nat) (host : List HostMove) : State where
  cfg := cfg
  busy := false
  t := 0
  pat := 0#6
  ev := Six.ofFn (fun _ => ChannelEvent.unwritten)
  portA := 0#3
  portB := 0#3
  done := false
  upc := 0
  elapsed := 0
  sigma := Six.identity
  pre := 0
  tau := 0
  result := 0#3
  now := now
  resetAt := resetAt
  host := host
  bench := none

/-- The machine right after reset, in interval I_0 (95_test_vectors.md L3), with the reference parameters and a host
that makes no move. -/
def State.reset : State := State.resetFor Config.reference 0 [] []

end Sys2Proof.Machine
end

