-- ==== Sys2Proof/Machine/Ops.lean ====
section
/-! DEFINITION. The named operations over the output slices, the sequencer's time, and reset. The block has no memory
(R35) and takes no exception (R100, R105): the one event that ends a frame early is reset (R106), whose shared
operation stands here. -/

namespace Sys2Proof.Machine

/-- The output slice of a port (R26). -/
def State.port (s : State) (p : Port) : Slice :=
  match p with
  | .A => s.portA
  | .B => s.portB

/-- Write the whole slice of one port; the other is untouched (R38). -/
def State.setPort (s : State) (p : Port) (v : Slice) : State :=
  { s with
    portA := match p with
      | .A => v
      | .B => s.portA
    portB := match p with
      | .A => s.portB
      | .B => v }

/-- Set the masked bits of a port (R95). -/
def State.setBits (s : State) (p : Port) (m : Slice) : State :=
  s.setPort p (s.port p ||| m)

/-- Clear the masked bits of a port (R96). -/
def State.clearBits (s : State) (p : Port) (m : Slice) : State :=
  s.setPort p (s.port p &&& ~~~m)

/-- The masked bits of a port (R97). -/
def State.readBits (s : State) (p : Port) (m : Slice) : Slice :=
  s.port p &&& m

/-- Leave a PREAD's result where its issuer reads it (R97). -/
def State.setResult (s : State) (v : Slice) : State :=
  { s with result := v }

/-- `Wait(n)`: the frame-relative time advances by n ticks, so the next micro-operation is performed n ticks later;
the ports are unchanged (R12, R98). -/
def State.waitTicks (s : State) (n : Nat) : State :=
  { s with tau := s.tau + n }

/-- Reset sampled at a tick boundary: the reset state, whatever the state was (R115). The parameters are fixed at
elaboration (R19), the host's schedule is the host's and the bench's words the bench's, so these
stay. DESIGN CHOICE (safe): log entry 24. -/
def State.takeReset (s : State) : State :=
  { State.resetFor s.cfg s.now s.resetAt s.host with bench := s.bench }

end Sys2Proof.Machine
end

