-- ==== Sys2Proof/Machine/Flags.lean ====
section
/-! DEFINITION. The status bits. The block has no condition codes and no arithmetic flags (R20); its status is `busy`,
`done` and the combinational `cmd_ready` (R22, R27, R31). -/

namespace Sys2Proof.Machine

/-- This is the last interval of a frame: the frame ends at the boundary that closes it (R87 `ending`). -/
def State.ending (s : State) : Bool :=
  s.busy && (s.t + 1 == s.cfg.periodUs)

/-- The block can accept a command: `cmd_ready` with `rst` = 0 (R87 `ready`). -/
def State.ready (s : State) : Bool :=
  !s.busy || (s.t + 1 == s.cfg.periodUs)

/-- The host holds `rst` = 1 in this interval (R31). -/
def State.rst (s : State) : Bool :=
  s.resetAt.contains s.now

/-- The output `cmd_ready = ¬rst ∧ (¬busy ∨ t = PERIOD_US − 1)` (R31). -/
def State.cmdReady (s : State) : Bool :=
  !s.rst && s.ready

/-- Write `done` (R27). -/
def State.setDone (s : State) (d : Bool) : State :=
  { s with done := d }

end Sys2Proof.Machine
end

