-- ==== Sys2Proof/Machine/Pulse.lean ====
section
/-! DEFINITION. The servo pulse-timing engine: the angle-to-pulse converter and the pattern-to-channel mapper (R63 to
R69), and the clamp of the loaded events (R73). All are combinational and total; arithmetic is exact (R11, R65). -/

namespace Sys2Proof.Machine

/-- `clampAngle(a)`: any signed integer, silently clamped to [0, `ANGLE_MAX`] (R63). -/
def clampAngle (c : Config) (a : Int) : Nat :=
  if a < 0 then 0 else if a > c.angleMax then c.angleMax else a.toNat

/-- `pulse_us(a)`: the product is formed first and then divided, rounding down (R64). -/
def pulseUs (c : Config) (a : Int) : Nat :=
  c.servoMinUs + (c.servoMaxUs - c.servoMinUs) * clampAngle c a / c.angleMax

/-- `angle(pat, k)`: `ANGLE_ON` for a raised dot, else `ANGLE_OFF` (R67). -/
def channelAngle (c : Config) (pat : Pattern) (k : Fin 6) : Int :=
  if pat.getLsbD k then c.angleOn else c.angleOff

/-- `mask_k = 1 << slot_k`, one-hot (R68). -/
def slotMask (slot : Fin 3) : Slice := 1#3 <<< slot.val

/-- Event k of `expand(pat)` (R69). -/
def channelEvent (c : Config) (pat : Pattern) (k : Fin 6) : RawEvent where
  port := (c.wiring.get k).port
  mask := slotMask (c.wiring.get k).slot
  dur := pulseUs c (channelAngle c pat k)

/-- `expand(pat)`: the six channel events of a pattern (R69). -/
def expand (c : Config) (pat : Pattern) : Six RawEvent :=
  Six.ofFn (channelEvent c pat)

/-- One event with its duration clamped to the period, as the slot stores it (R73); nothing truncates (R29). -/
def clampEvent (c : Config) (e : RawEvent) : ChannelEvent where
  port := e.port
  mask := e.mask
  dur := c.durReg (min e.dur c.periodUs)

/-- `clampEvents(ev)` (R73). -/
def clampEvents (c : Config) (evs : Six RawEvent) : Six ChannelEvent :=
  Six.ofFn (fun k => clampEvent c (evs.get k))

end Sys2Proof.Machine
end

