-- ==== Sys2Proof/Machine/Sequencer.lean ====
section
/-! DEFINITION. The frame sequencer: the sort by duration (R75), the 19-entry frame stream (R76), the instants at which
its micro-operations are performed (R78), and the stream and closed form written out as functions of the events (R76,
R81). `step` drives the lines by performing the micro-operations (DESIGN CHOICE (safe): log entry 8); the closed form is
for statements. -/

namespace Sys2Proof.Machine

/-- Event slot a comes before slot b: smaller duration, then `TIE_ORDER`, then slot index (R75; log entry 14). -/
def firesBefore (c : Config) (ev : Six ChannelEvent) (a b : Fin 6) : Bool :=
  let da := (ev.get a).dur
  let db := (ev.get b).dur
  let ra := c.tieRank.get a
  let rb := c.tieRank.get b
  decide (da < db) || (decide (da = db) && (decide (ra < rb) || (decide (ra = rb) && decide (a.val ≤ b.val))))

/-- Insert a slot before the first that does not come before it. -/
def insertSlot (before : Fin 6 → Fin 6 → Bool) (k : Fin 6) : List (Fin 6) → List (Fin 6)
  | [] => [k]
  | x :: xs => if before k x then k :: x :: xs else x :: insertSlot before k xs

/-- Sort a list of slots. -/
def sortSlots (before : Fin 6 → Fin 6 → Bool) : List (Fin 6) → List (Fin 6)
  | [] => []
  | x :: xs => insertSlot before x (sortSlots before xs)

/-- σ: the permutation of the slots by ascending duration (R75). -/
def sortEvents (c : Config) (ev : Six ChannelEvent) : Six (Fin 6) :=
  Six.ofList Six.identity (sortSlots (firesBefore c ev) channels)

/-- What stands at an index of the frame stream (R76). -/
inductive StreamEntry where
  /-- 1. rising edge: the PSET of slot k. -/
  | rise (k : Fin 6)
  /-- 3. the WAIT before the j-th fall in σ order. -/
  | await (j : Fin 6)
  /-- 3. the PCLR of the j-th fall in σ order. -/
  | fall (j : Fin 6)
  /-- 4. frame padding. -/
  | pad
  /-- Past the last entry. -/
  | finished
  deriving DecidableEq, Repr

/-- The shape of the stream: 6 PSET, then 6 (WAIT, PCLR) pairs, then 1 WAIT (R76). -/
def streamEntry (u : Fin 20) : StreamEntry :=
  match u.val with
  | 0 => .rise 0 | 1 => .rise 1 | 2 => .rise 2 | 3 => .rise 3 | 4 => .rise 4 | 5 => .rise 5
  | 6 => .await 0 | 7 => .fall 0 | 8 => .await 1 | 9 => .fall 1 | 10 => .await 2 | 11 => .fall 2
  | 12 => .await 3 | 13 => .fall 3 | 14 => .await 4 | 15 => .fall 4 | 16 => .await 5 | 17 => .fall 5
  | 18 => .pad
  | _ => .finished

/-- The stream index after this one; `finished` stays (R18: one step per micro-operation, no wrap). -/
def nextIndex (u : Fin 20) : Fin 20 :=
  if h : u.val < 19 then ⟨u.val + 1, by omega⟩ else u

/-- The event of the j-th fall, `ev[σ[j]]` (R76). -/
def State.fallEvent (s : State) (j : Fin 6) : ChannelEvent :=
  s.ev.get (s.sigma.get j)

/-- The micro-operation the sequencer emits at its present index (R76). Its differences are of natural numbers, and exact
in every frame (R77; log entry 25). -/
def State.nextUop (s : State) : Option Instr :=
  match streamEntry s.upc with
  | .rise k => some (.pset (s.ev.get k).port (s.ev.get k).mask)
  | .await j => some (.wait ((s.fallEvent j).dur - s.elapsed))
  | .fall j => some (.pclr (s.fallEvent j).port (s.fallEvent j).mask)
  | .pad => some (.wait (s.cfg.periodUs - s.elapsed))
  | .finished => none

/-- Perform one micro-operation on the state; RENDER_FRAME is none and is never emitted (R57, R94). -/
def State.performUop (s : State) (i : Instr) : State :=
  match i with
  | .renderFrame _ => s
  | .pset p m => s.setBits p m
  | .pclr p m => s.clearBits p m
  | .pread p m => s.setResult (s.readBits p m)
  | .wait n => s.waitTicks n

/-- `elapsed` after the entry at the present index: a PCLR leaves the duration of the event it clears (R30, R76). -/
def State.elapsedAfter (s : State) : Nat :=
  match streamEntry s.upc with
  | .rise _ => s.elapsed
  | .await _ => s.elapsed
  | .fall j => (s.fallEvent j).dur
  | .pad => s.elapsed
  | .finished => s.elapsed

/-- The sequencer's own registers after the entry at its index (R30, R76). -/
def State.advanceIndex (s : State) : State :=
  { s with upc := nextIndex s.upc, elapsed := s.elapsedAfter }

/-- Perform the entry at the present index, and go on to the next. -/
def State.performEntry (s : State) : State :=
  match s.nextUop with
  | some i => (s.performUop i).advanceIndex
  | none => s

/-- A micro-operation is left whose instant is at most `limit` (R78). -/
def State.due (s : State) (limit : Nat) : Bool :=
  s.nextUop.isSome && decide (s.tau ≤ limit)

/-- Perform, in stream order, at most `fuel` entries whose instant is at most `limit`. -/
def State.performUpTo (limit : Nat) : Nat → State → State
  | 0, s => s
  | fuel + 1, s => if s.due limit then State.performUpTo limit fuel s.performEntry else s

/-- Perform every micro-operation with instant `τ_j <= limit` that is still to come (R78); 19 is the stream's
length. -/
def State.performDue (s : State) (limit : Nat) : State :=
  State.performUpTo limit 19 s

/-- The micro-operations at `τ_j = PERIOD_US`, performed at the frame-end boundary before anything the next frame
performs there (R78). -/
def State.finishStream (s : State) : State :=
  s.performDue s.cfg.periodUs

/-- Load the six event slots and start the sequencer: σ sorted, index, `elapsed` and τ zero, `busy` set, `t` zero
(R18, R72, R75, R76). -/
def State.loadFrame (s : State) (ev : Six ChannelEvent) : State :=
  { s with busy := true, t := 0, ev := ev, sigma := sortEvents s.cfg ev, upc := 0, elapsed := 0, tau := 0 }

/-- Start a frame at this boundary: finish the frame that ends here, if one does, load the events, and perform the
micro-operations of instant 0 (R72, R78, R87). -/
def State.startFrame (s : State) (ev : Six ChannelEvent) : State :=
  let ended := s.ending
  let s := if ended then s.finishStream else s
  ((s.loadFrame ev).setDone ended).performDue 0

/-- `t + 1` as the tick counter holds it (R23, R87). -/
def State.nextTick (s : State) : Nat := s.cfg.tReg (s.t + 1)

/-- A boundary at which no frame starts (R87): a frame ends and the block goes idle, or a frame goes on by one tick, or
the block stays idle. -/
def State.advance (s : State) : State :=
  if s.ending then { s.finishStream with busy := false, t := 0, done := true }
  else if s.busy then
    let s := { s with t := s.nextTick, done := false }
    s.performDue s.t
  else s.setDone false

/-! ## The frame stream and the lines as functions of the events -/

/-- The falling edges and the padding: for each slot of the order, `WAIT(dur - elapsed)` then PCLR; at the end
`WAIT(PERIOD_US - elapsed)` (R76). -/
def fallingEdges (c : Config) (ev : Six ChannelEvent) : List (Fin 6) → Nat → List Instr
  | [], elapsed => [.wait (c.periodUs - elapsed)]
  | k :: ks, elapsed =>
    .wait ((ev.get k).dur - elapsed) :: .pclr (ev.get k).port (ev.get k).mask :: fallingEdges c ev ks (ev.get k).dur

/-- The frame stream whose falls follow the slot order `order` (R76). -/
def streamInOrder (c : Config) (ev : Six ChannelEvent) (order : List (Fin 6)) : List Instr :=
  channels.map (fun k => .pset (ev.get k).port (ev.get k).mask) ++ fallingEdges c ev order 0

/-- `run_frame(ev)`: the 19 micro-operations of a frame (R76). -/
def frameStream (c : Config) (ev : Six ChannelEvent) : List Instr :=
  streamInOrder c ev (sortEvents c ev).toList

/-- The ticks a micro-operation takes: n for WAIT n, 0 for the others (R78, R125). -/
def uopTicks : Instr → Nat
  | .renderFrame _ => 0
  | .pset _ _ => 0
  | .pclr _ _ => 0
  | .pread _ _ => 0
  | .wait n => n

/-- The stream with each micro-operation's instant: the sum of the WAIT operands before it (R78). -/
def withInstants : Nat → List Instr → List (Nat × Instr)
  | _, [] => []
  | tau, i :: is => (tau, i) :: withInstants (tau + uopTicks i) is

/-- The two slices after one micro-operation (R95 to R98). -/
def uopOnPorts (ports : Slice × Slice) (i : Instr) : Slice × Slice :=
  match i with
  | .renderFrame _ => ports
  | .pset .A m => (ports.1 ||| m, ports.2)
  | .pset .B m => (ports.1, ports.2 ||| m)
  | .pclr .A m => (ports.1 &&& ~~~m, ports.2)
  | .pclr .B m => (ports.1, ports.2 &&& ~~~m)
  | .pread _ _ => ports
  | .wait _ => ports

/-- The slices in the interval `[tau, tau + 1)` of a frame with this stream, which begins with all lines low: their
value after every micro-operation with instant at most `tau` (R78). -/
def portsByStream (stream : List Instr) (tau : Nat) : Slice × Slice :=
  ((withInstants 0 stream).filter (fun e => decide (e.1 ≤ tau))).foldl (fun ports e => uopOnPorts ports e.2) (0#3, 0#3)

/-- `touch(P, b)`: the slots whose event acts on bit b of port P (R81). -/
def touching (ev : Six ChannelEvent) (p : Port) (b : Fin 3) : List (Fin 6) :=
  channels.filter (fun k => decide ((ev.get k).port = p) && (ev.get k).mask.getLsbD b)

/-- One bit of the closed form: some event touches it, and τ is below the duration of every event that does (R81). -/
def lineHigh (ev : Six ChannelEvent) (p : Port) (b : Fin 3) (tau : Nat) : Bool :=
  !(touching ev p b).isEmpty && (touching ev p b).all (fun k => decide (tau < (ev.get k).dur))

/-- The closed form of a port's slice in interval τ of a frame (R81). -/
def closedForm (ev : Six ChannelEvent) (p : Port) (tau : Nat) : Slice :=
  BitVec.ofBool (lineHigh ev p 2 tau) ++ BitVec.ofBool (lineHigh ev p 1 tau) ++ BitVec.ofBool (lineHigh ev p 0 tau)

end Sys2Proof.Machine
end

