-- ==== Sys2Proof/Machine/Frame.lean ====
section
/-! DEFINITION. The host's command, RENDER_FRAME (R72). -/

namespace Sys2Proof.Machine

/-- RENDER_FRAME offered at a boundary without reset. When the block is ready it is accepted there: the pattern is
captured, the events are loaded and the frame starts (R72, R87). When it is not, the command waits at the host and the
running frame goes on by one tick (R90). -/
def execRenderFrame (pat : Pattern) (s : State) : Host.Outcome State Fault Refusal :=
  if s.ready then
    .next (({ s with pat := pat } : State).startFrame (clampEvents s.cfg (expand s.cfg pat)))
  else .next s.advance

end Sys2Proof.Machine
end

