-- ==== Sys2Proof/Machine/MicroOps.lean ====
section
/-! DEFINITION. The port and wait micro-operations (R95 to R98). Each is total and raises nothing. -/

namespace Sys2Proof.Machine

/-- PSET: `port[P] <- port[P] | M` (R95). -/
def execPset (p : Port) (m : Slice) (s : State) : Host.Outcome State Fault Refusal :=
  .next (s.setBits p m)

/-- PCLR: `port[P] <- port[P] & ~M` (R96). -/
def execPclr (p : Port) (m : Slice) (s : State) : Host.Outcome State Fault Refusal :=
  .next (s.clearBits p m)

/-- PREAD: `result <- port[P] & M`, and no other state changes (R97). -/
def execPread (p : Port) (m : Slice) (s : State) : Host.Outcome State Fault Refusal :=
  .next (s.setResult (s.readBits p m))

/-- WAIT: `τ <- τ + n`; the ports are unchanged (R98). -/
def execWait (n : Nat) (s : State) : Host.Outcome State Fault Refusal :=
  .next (s.waitTicks n)

end Sys2Proof.Machine
end

