-- ==== Sys2Proof/Machine/Dispatch.lean ====
section
/-! DEFINITION. One arm per instruction. -/

namespace Sys2Proof.Machine

def exec (i : Instr) (s : State) : Host.Outcome State Fault Refusal :=
  match i with
  | .renderFrame pat => Sys2Proof.Machine.execRenderFrame pat s
  | .pset p m => Sys2Proof.Machine.execPset p m s
  | .pclr p m => Sys2Proof.Machine.execPclr p m s
  | .pread p m => Sys2Proof.Machine.execPread p m s
  | .wait n => Sys2Proof.Machine.execWait n s

end Sys2Proof.Machine
end

