-- ==== Sys2Proof/Machine/Boundary.lean ====
section
/-! DEFINITION. The tick boundary: the inputs the host presents in the present interval (R31), what becomes of its
moves, and the block's reaction, in the order of R104. And, apart from the block in service, a test bench that runs
micro-operations on their own (R94). -/

namespace Sys2Proof.Machine

/-- What is offered to the block in one interval. -/
inductive Offer where
  /-- `cmd_valid` = 0. -/
  | nothing
  /-- `cmd_valid` = 1 with this `cmd_data`. -/
  | word (w : CmdWord)
  /-- The harness offers six raw events in place of a command (R74). -/
  | events (evs : Six RawEvent)
  deriving DecidableEq, Repr

/-- What a move offers in interval `now`: nothing before its start (R61). -/
def HostMove.offer (m : HostMove) (now : Nat) : Offer :=
  if m.start ≤ now then
    match m.act with
    | .pause => .nothing
    | .offer w => .word w
    | .offerUntil _ w => .word w
    | .harness evs => .events evs
  else .nothing

/-- What the host offers in the present interval: the first pending move alone, since it offers one command at a time
(R61). -/
def State.offer (s : State) : Offer :=
  match s.host with
  | [] => .nothing
  | m :: _ => m.offer s.now

/-- The block takes the offer at the boundary that closes this interval (R87 `accept`; R31). -/
def State.accepts (s : State) : Bool :=
  s.cmdReady && s.offer != .nothing

/-- The host's moves after the interval `now`. An accepted offer is over; an offer not accepted stays (R90), but for one
that is withdrawn, after which one interval offers nothing (R109; log entry 17). -/
def movesAfter (now : Nat) (accepted : Bool) (moves : List HostMove) : List HostMove :=
  match moves with
  | [] => []
  | m :: rest =>
    if m.start ≤ now then
      match m.act with
      | .pause => rest
      | .offer _ => if accepted then rest else m :: rest
      | .offerUntil last _ => if accepted then rest else if last ≤ now then ⟨0, .pause⟩ :: rest else m :: rest
      | .harness _ => if accepted then rest else m :: rest
    else m :: rest

/-- The host's side of a boundary: the next interval begins, with the moves that remain. -/
def State.nextInterval (s : State) : State :=
  { s with now := s.now + 1, host := movesAfter s.now s.accepts s.host }

/-- A host command word offered without reset. RENDER_FRAME has its meaning; a reserved command is consumed with no
other effect (R55, R87). -/
def offerWord (w : CmdWord) (s : State) : Host.Outcome State Fault Refusal :=
  match decode (.cmd w) with
  | .ok i => exec i s
  | .error _ => .next s.advance

/-- The harness entry: six raw events, clamped, in place of `expand pattern` (R74). `pat` stays: DESIGN CHOICE (safe),
log entry 10. -/
def offerEvents (evs : Six RawEvent) (s : State) : State :=
  if s.ready then s.startFrame (clampEvents s.cfg evs) else s.advance

/-- The block's side of a boundary, with the inputs sampled there (R87, R104). -/
def react (rst : Bool) (o : Offer) (s : State) : Host.Outcome State Fault Refusal :=
  if rst then .next s.takeReset
  else
    match o with
    | .nothing => .next s.advance
    | .word w => offerWord w s
    | .events evs => .next (offerEvents evs s)

/-- One tick boundary (R87). -/
def State.boundary (s : State) : Host.Outcome State Fault Refusal :=
  react s.rst s.offer s.nextInterval

/-- A test bench runs one micro-operation word on its own; a reserved word is refused (R57, R94). -/
def runMicroOp (u : UopWord) (s : State) : Host.Outcome State Fault Refusal :=
  match decode (.uop u) with
  | .ok i => exec i s
  | .error _ => .refused (.reservedMicroOp u)

/-- The state is a test bench's, to run micro-operations on their own (R94): the block is not in service and no frame is
in progress, for the block alone owns the lines (R43). -/
def State.onBench (s : State) : Bool :=
  s.bench.isSome && !s.busy

/-- A test bench runs its next word, and with none left leaves the state as it is. DESIGN CHOICE (safe): no tick comes
on the bench, log entry 9. -/
def State.benchStep (s : State) : Host.Outcome State Fault Refusal :=
  match s.bench with
  | some (u :: rest) => runMicroOp u { s with bench := some rest }
  | some [] => .next s
  | none => .next s

/-- One step of a machine whose configuration is valid: a tick boundary, or on a test bench its next micro-operation,
which takes no tick. -/
def State.stepValid (s : State) : Host.Outcome State Fault Refusal :=
  if s.onBench then s.benchStep else s.boundary

/-- The words still to run on the bench. -/
def State.benchWords (s : State) : List UopWord :=
  match s.bench with
  | some us => us
  | none => []

/-- Put a word first in line on the channel its length gives it (R49): a host command offered to the block in service in
the present interval, with `rst` = 0; or a micro-operation of a test bench, which needs a state with no frame in
progress. -/
def State.presentWord (s : State) (nbits w : Nat) : State :=
  if nbits ≤ 16 then
    { s with
      resetAt := s.resetAt.filter (· != s.now)
      host := ⟨s.now, .offer (BitVec.ofNat 16 w)⟩ :: s.host
      bench := none }
  else { s with busy := false, t := 0, bench := some (BitVec.ofNat 32 w :: s.benchWords) }

end Sys2Proof.Machine
end

