-- ==== Sys2Proof/Machine/Elaborate.lean ====
section
/-! DEFINITION. Elaboration: the constraints a configuration must satisfy, and building a machine from one. A
configuration that breaks a constraint is refused; no runtime path reports it (R8, R102). -/

namespace Sys2Proof.Machine

/-- `WIRING` is a bijection from the six pattern bits onto the six lines (R8): six lines, no two equal. -/
def wiringBijective (w : Six Line) : Bool :=
  decide w.toList.Nodup

/-- The constraints of R8. -/
def configValid (c : Config) : Bool :=
  decide (c.servoMinUs ≤ c.servoMaxUs) && decide (c.servoMaxUs ≤ c.periodUs) &&
  decide (1 ≤ c.periodUs) && decide (c.periodUs ≤ 2 ^ c.tW - 1) && decide (c.periodUs ≤ 2 ^ c.durW - 1) &&
  decide (1 ≤ c.angleMax) && decide (c.angleOff ≤ c.angleMax) && decide (c.angleOn ≤ c.angleMax) &&
  wiringBijective c.wiring

/-- Build a machine: its reset state, or a refusal (R102, R119). -/
def build (c : Config) : Except Refusal State :=
  if configValid c then .ok (State.resetFor c 0 [] []) else .error .invalidConfiguration

end Sys2Proof.Machine
end

