-- ==== Sys2Proof/Machine/Step.lean ====
section
/-! DEFINITION. One step: one tick boundary of the block (R13, R87), or one micro-operation a test bench runs on its own
(R94). No machine is built from a configuration that breaks R8, so such a state is refused (R102). DESIGN CHOICE (safe): log
entries 1 and 15. -/

namespace Sys2Proof.Machine

def step (s : State) : Host.Outcome State Fault Refusal :=
  if configValid s.cfg then s.stepValid else .refused .invalidConfiguration

/-- The state with one more word for the next step to take, ahead of the host's other moves: a host command offered in
the present interval, or a micro-operation of a test bench (log entry 16). -/
def State.withFetchWord (s : State) (nbits w : Nat) : State :=
  s.presentWord nbits w

end Sys2Proof.Machine
end

