-- ==== Sys2Proof/Machine/Clock.lean ====
section
/-! DEFINITION. Below the tick: the prescaler that counts `CLK_PER_US` clock cycles to make one 1 µs tick (R30, R110,
R126). The inputs are sampled at tick boundaries only (R115). -/

namespace Sys2Proof.Machine

/-- One clock cycle. The prescaler counts up; on its last count it returns to 0 and the tick boundary comes. On a test
bench no time passes. -/
def State.clockCycle (s : State) : Host.Outcome State Fault Refusal :=
  if s.onBench then step s
  else if configValid s.cfg && decide (s.pre < Config.prescaleTop) then .next { s with pre := s.pre + 1 }
  else step { s with pre := 0 }

/-- A number of clock cycles, stopping at the first refusal. -/
def State.clockCycles : Nat → State → Host.Outcome State Fault Refusal
  | 0, s => .next s
  | n + 1, s =>
    match s.clockCycle with
    | .next s' => State.clockCycles n s'
    | .fault r => .fault r
    | .refused r => .refused r

end Sys2Proof.Machine
end

