-- ==== Sys2Proof/Machine/Observe.lean ====
section
/-! DEFINITION. The interface signals (R31) and what can be observed of the block in one interval (R32). -/

namespace Sys2Proof.Machine

/-- The input signals of one interval (R31). -/
structure Inputs where
  rst : Bool
  cmdValid : Bool
  cmdData : CmdWord
  deriving DecidableEq, Repr

/-- The output signals of one interval (R31): all that can be observed, with the commands accepted (R32). -/
structure Outputs where
  pwmA : Slice
  pwmB : Slice
  busy : Bool
  frameDone : Bool
  cmdReady : Bool
  deriving DecidableEq, Repr

/-- The inputs the host presents in this interval. `cmd_data` reads 0 while `cmd_valid` = 0: DESIGN CHOICE (safe),
nothing reads it then, log entry 19. The harness entry is no command (R74). -/
def State.inputs (s : State) : Inputs where
  rst := s.rst
  cmdValid := match s.offer with
    | .nothing => false
    | .word _ => true
    | .events _ => false
  cmdData := match s.offer with
    | .nothing => 0#16
    | .word w => w
    | .events _ => 0#16

/-- The outputs of this interval (R31). -/
def State.outputs (s : State) : Outputs where
  pwmA := s.portA
  pwmB := s.portB
  busy := s.busy
  frameDone := s.done
  cmdReady := s.cmdReady

/-- The command word accepted at the boundary that closes this interval, if one is (R31, R32). -/
def State.acceptedCommand (s : State) : Option CmdWord :=
  match s.offer with
  | .nothing => none
  | .word w => if s.accepts then some w else none
  | .events _ => none

end Sys2Proof.Machine
end

