-- ==== Sys2Proof/Machine/Program.lean ====
section
/-! DEFINITION. Timed host programs (R61): how a list of timed lines becomes the host's schedule. -/

namespace Sys2Proof.Machine

/-- A line of a host program (R61). -/
inductive ProgramLine where
  /-- `@n <command>`: a `render` line or a pseudo-instruction that gives a host command. -/
  | command (n : Nat) (l : AsmLine)
  /-- `@n .cmd <w>`: a raw 16-bit word. -/
  | raw (n : Nat) (w : CmdWord)
  /-- `@n reset`: `rst` = 1 during I_n. -/
  | reset (n : Nat)
  deriving DecidableEq, Repr

/-- The interval a line names. -/
def ProgramLine.interval : ProgramLine → Nat
  | .command n _ => n
  | .raw n _ => n
  | .reset n => n

/-- Lines are in non-decreasing n (R61). -/
def inOrder : List ProgramLine → Bool
  | [] => true
  | [_] => true
  | a :: b :: rest => decide (a.interval ≤ b.interval) && inOrder (b :: rest)

/-- The reset intervals and the offers of a program, in order; none where a line does not assemble to a host
command. -/
def schedule : List ProgramLine → Option (List Nat × List HostMove)
  | [] => some ([], [])
  | l :: rest =>
    match schedule rest with
    | none => none
    | some (rs, ms) =>
      match l with
      | .reset n => some (n :: rs, ms)
      | .raw n w => some (rs, ⟨n, .offer w⟩ :: ms)
      | .command n a =>
        match a.assemble with
        | some (.cmd w) => some (rs, ⟨n, .offer w⟩ :: ms)
        | some (.uop _) => none
        | none => none

/-- The state with a host program to run, from a state whose host makes no move; none where the program is no program
(R61). -/
def State.withProgram (s : State) (lines : List ProgramLine) : Option State :=
  if inOrder lines then
    match schedule lines with
    | some (rs, ms) => some { s with resetAt := rs, host := ms }
    | none => none
  else none

end Sys2Proof.Machine
end

