-- ==== Sys2Proof/Safety.lean ====
section
/-! DEFINITION. What a safe run is, in the terms the statements use: the invariant of the block's own runs, and R87's
step function transcribed literally over the block's architectural fields, against which `step` is held. -/

namespace Sys2Proof.Machine

/-- A move other than the harness entry (R74). -/
def HostMove.isNoHarness (m : HostMove) : Bool :=
  match m.act with
  | .pause => true
  | .offer _ => true
  | .offerUntil _ _ => true
  | .harness _ => false

/-- The state as it was when its frame began, before the first micro-operation: sequencer at the start of the stream
and all lines low (R76, R81). -/
def State.atFrameStart (s : State) : State :=
  { s with upc := 0, elapsed := 0, tau := 0, portA := 0#3, portB := 0#3 }

/-- The invariant of the block's own runs: what holds in every interval when nothing but the host acts on it (R22, R23,
R29, R34, R75, R78). -/
structure State.Inv (s : State) : Prop where
  /-- The parameters pass the checks of elaboration (R8). -/
  valid : configValid s.cfg = true
  /-- The block is in service: no test bench runs micro-operations on the state (R43, R94). -/
  inService : s.bench = none
  /-- While idle, `t` = 0 (R23). -/
  idle_t : s.busy = false → s.t = 0
  /-- While idle, every line is low (R34). -/
  idle_lines : s.busy = false → s.portA = 0#3 ∧ s.portB = 0#3
  /-- In a frame, `t <= PERIOD_US - 1` (R23). -/
  frame_t : s.busy = true → s.t < s.cfg.periodUs
  /-- In a frame, no stored duration exceeds the period (R29). -/
  frame_durs : s.busy = true → ∀ k, (s.ev.get k).dur ≤ s.cfg.periodUs
  /-- In a frame, σ sorts the events (R75). -/
  frame_sigma : s.busy = true → s.sigma = sortEvents s.cfg s.ev
  /-- In a frame, exactly the micro-operations of instants `τ_j <= t` have been performed (R78). -/
  frame_stream : s.busy = true → s.atFrameStart.performDue s.t = s

/-- In a frame the event slots hold the events of the captured pattern, and the harness makes no move (R25, R74). -/
structure State.PatternInv (s : State) : Prop where
  /-- The harness makes no move. -/
  noHarness : s.host.all HostMove.isNoHarness = true
  /-- The slots hold `clampEvents (expand pat)` while a frame runs. -/
  frame_ev : s.busy = true → s.ev = clampEvents s.cfg (expand s.cfg s.pat)

/-- The block's architectural fields, R21's table. -/
structure BlockState where
  busy : Bool
  t : Nat
  pat : Pattern
  ev : Six ChannelEvent
  portA : Slice
  portB : Slice
  done : Bool
  deriving DecidableEq, Repr

/-- The architectural fields of a state (R21). -/
def State.block (s : State) : BlockState :=
  ⟨s.busy, s.t, s.pat, s.ev, s.portA, s.portB, s.done⟩

/-- The last assignment of R87: `S'.port` is the closed form in a frame, else all lines are low. -/
def BlockState.withPorts (b : BlockState) : BlockState :=
  bif b.busy then { b with portA := closedForm b.ev .A b.t, portB := closedForm b.ev .B b.t }
  else { b with portA := 0#3, portB := 0#3 }

/-- `ResetState` (R115), whose event slots are whatever is given for R115's "unspecified". -/
def BlockState.reset (unspecified : Six ChannelEvent) : BlockState :=
  ⟨false, 0, 0#6, unspecified, 0#3, 0#3, false⟩

/-- `Next(S, rst, cmd_valid, cmd_data)`, R87 line by line; `unspecified` is what the event slots hold after a reset
(R28). -/
def BlockState.next (unspecified : Six ChannelEvent) (c : Config) (b : BlockState) (i : Inputs) : BlockState :=
  let atEnd := b.t + 1 == c.periodUs
  let ready := !b.busy || atEnd
  let ending := b.busy && atEnd
  let accept := i.cmdValid && ready
  let pat := i.cmdData.extractLsb' 0 6
  bif i.rst then BlockState.reset unspecified
  else bif accept && i.cmdData.extractLsb' 12 4 == 0b0001#4 then
    ({ b with pat := pat, ev := clampEvents c (expand c pat), busy := true, t := 0, done := ending } :
      BlockState).withPorts
  else bif ending then ({ b with busy := false, t := 0, done := ending } : BlockState).withPorts
  else bif b.busy then ({ b with t := b.t + 1, done := ending } : BlockState).withPorts
  else ({ b with done := ending } : BlockState).withPorts

/-- The constraints of R8 as it writes them. -/
def ConstraintsHold (c : Config) : Prop :=
  (0 ≤ c.servoMinUs ∧ c.servoMinUs ≤ c.servoMaxUs ∧ c.servoMaxUs ≤ c.periodUs) ∧
  (1 ≤ c.periodUs ∧ c.periodUs ≤ 2 ^ c.tW - 1 ∧ c.periodUs ≤ 2 ^ c.durW - 1) ∧ 1 ≤ c.angleMax ∧
  (0 ≤ c.angleOff ∧ c.angleOff ≤ c.angleMax ∧ 0 ≤ c.angleOn ∧ c.angleOn ≤ c.angleMax) ∧
  Function.Bijective (fun k : Fin 6 => c.wiring.get k)

/-- The bit an event drives in its port's slice: WIRING(k) (R68). -/
def State.lineOf (s : State) (k : Fin 6) : Bool :=
  (s.port (s.cfg.wiring.get k).port).getLsbD (s.cfg.wiring.get k).slot

/-- Nothing but the two output slices differs from `s` in `t`. -/
def State.onlyLinesChange (s t : State) : Prop := t = { s with portA := t.portA, portB := t.portB }

/-- Nothing but PREAD's result differs from `s` in `t`. -/
def State.onlyResultChanges (s t : State) : Prop := t = { s with result := t.result }

/-- Nothing but the frame-relative time differs from `s` in `t`. -/
def State.onlyTauChanges (s t : State) : Prop := t = { s with tau := t.tau }

/-- What no reaction of the block writes: the parameters (R19), the prescaler, PREAD's result, and the host's and the
bench's own fields. -/
structure State.sameSurroundings (s t : State) : Prop where
  cfg : t.cfg = s.cfg
  pre : t.pre = s.pre
  result : t.result = s.result
  now : t.now = s.now
  resetAt : t.resetAt = s.resetAt
  host : t.host = s.host
  bench : t.bench = s.bench

/-- The host asserts no reset in the `n` intervals from this one on. -/
def State.noResetFor (s : State) (n : Nat) : Prop := ∀ i, i < n → s.now + i ∉ s.resetAt

/-- Slot a's event is cleared before slot b's in the reference order: by duration, then by slot index (R75). -/
def clearedBefore (ev : Six ChannelEvent) (a b : Fin 6) : Prop :=
  (ev.get a).dur < (ev.get b).dur ∨ (ev.get a).dur = (ev.get b).dur ∧ a.val < b.val

/-- Whether an instruction is a WAIT. -/
def isWait : Instr → Bool
  | .renderFrame _ => false
  | .pset _ _ => false
  | .pclr _ _ => false
  | .pread _ _ => false
  | .wait _ => true

/-- `UOP32` words that some row of R51 or R52 admits, read field by field: a port form with OP 1, 2 or 3 and its
must-be-0 bits zero, or the wait form with OP 4 and its must-be-0 bits zero. -/
def UopFieldsLegal (u : UopWord) : Prop :=
  (u.extractLsb' 28 4 = 1#4 ∨ u.extractLsb' 28 4 = 2#4 ∨ u.extractLsb' 28 4 = 3#4) ∧
      u.extractLsb' 25 3 = 0#3 ∧ u.extractLsb' 3 21 = 0#21 ∨
    u.extractLsb' 28 4 = 4#4 ∧ u.extractLsb' 16 12 = 0#12

end Sys2Proof.Machine
end

