-- ==== Sys2Proof/Certificates/Slice0/Obligations.lean ====
section
/-! DEFINITION. The statements for the provers, each a formal reading of numbered rules of spec/. Listed in
OBLIGATIONS.json. -/

open Sys2Proof Sys2Proof.Machine

/-! ## Encoding (30_encoding.md) -/

/-- Decoding the word of a well-formed instruction gives it back, with every operand at every value its field holds (R50
to R53). -/
def Obligations.DecodeOfEncodeIsIdentity : Prop :=
  ∀ i : Instr, i.wellFormed = true → decode (encode i) = .ok i

/-- A micro-operation word that decodes is exactly the encoding of what it decodes to: no bit is ignored (R51, R52,
R54). -/
def Obligations.MicroOpWordIsItsEncoding : Prop :=
  ∀ (u : UopWord) (i : Instr), decode (.uop u) = .ok i → i.wellFormed = true ∧ encode i = .uop u

/-- A RENDER_FRAME word performs RENDER_FRAME with the pattern of bits 5:0 whatever bits 11:6 hold (R56). -/
def Obligations.RenderFrameIgnoresReservedBits : Prop :=
  ∀ (rsv pat : BitVec 6), decode (.cmd (0b0001#4 ++ rsv ++ pat)) = .ok (.renderFrame pat)

/-- A `UOP32` word decodes unless its OP is reserved or a must-be-0 bit is set, field by field; a test bench that
presents a reserved word is refused; and what the sequencer emits always has a legal word, which decodes to it where its
operand fits its field (R57). -/
def Obligations.ReservedMicroOpsAreRefused : Prop :=
  (∀ u : UopWord, (∃ i, decode (.uop u) = .ok i) ↔ UopFieldsLegal u) ∧
  (∀ (s : State) (u : UopWord) (rest : List UopWord), configValid s.cfg = true → s.bench = some (u :: rest) →
    s.busy = false → ¬ UopFieldsLegal u → step s = .refused (.reservedMicroOp u)) ∧
  (∀ (s : State) (i : Instr), s.nextUop = some i → ∃ u, encode i = .uop u ∧ UopFieldsLegal u ∧
    (i.wellFormed = true → decode (.uop u) = .ok i))

/-- The worked words of R62: each line assembles to its word. -/
def Obligations.WorkedWordsAssemble : Prop :=
  AsmLine.assemble (.render 0b000001) = some (.cmd 0x1001#16) ∧
  AsmLine.assemble (.render 0b110101) = some (.cmd 0x1035#16) ∧
  AsmLine.assemble .rest = some (.cmd 0x1000#16) ∧
  AsmLine.assemble .raiseAll = some (.cmd 0x103F#16) ∧
  AsmLine.assemble (.pset .A 0b001) = some (.uop 0x10000001#32) ∧
  AsmLine.assemble (.pset .B 0b100) = some (.uop 0x11000004#32) ∧
  AsmLine.assemble (.pclr .B 0b010) = some (.uop 0x21000002#32) ∧
  AsmLine.assemble (.pread .A 0b111) = some (.uop 0x30000007#32) ∧
  AsmLine.assemble (.wait 600) = some (.uop 0x40000258#32) ∧
  AsmLine.assemble (.wait 18500) = some (.uop 0x40004844#32) ∧
  AsmLine.assemble .nop = some (.uop 0x40000000#32)

/-- A few words written out from the spec decode to what they stand for (95 L2-E). -/
def Obligations.WorkedWordsDecode : Prop :=
  decode (.cmd 0x1FC1#16) = .ok (.renderFrame 0b000001#6) ∧
  decode (.cmd 0x103F#16) = .ok (.renderFrame 0b111111#6) ∧
  decode (.cmd 0x2005#16) = .error (.reservedCommand 0x2005#16) ∧
  decode (.uop 0x10000006#32) = .ok (.pset .A 0b110#3) ∧
  decode (.uop 0x21000002#32) = .ok (.pclr .B 0b010#3) ∧
  decode (.uop 0x30000007#32) = .ok (.pread .A 0b111#3) ∧
  decode (.uop 0x40004BC8#32) = .ok (.wait 19400) ∧
  decode (.uop 0x12000001#32) = .error (.reservedMicroOp 0x12000001#32)

/-! ## The pulse-timing engine (40_pulse_conversion.md) -/

/-- The converter stays in its range, is monotonic, sees only the clamped angle, and meets both end points (R66). -/
def Obligations.PulseIsMonotonicAndBounded : Prop :=
  ∀ c : Config, configValid c = true →
    (∀ a : Int, c.servoMinUs ≤ pulseUs c a ∧ pulseUs c a ≤ c.servoMaxUs ∧ pulseUs c a = pulseUs c (clampAngle c a)) ∧
    (∀ a b : Int, a ≤ b → pulseUs c a ≤ pulseUs c b) ∧
    pulseUs c 0 = c.servoMinUs ∧ pulseUs c c.angleMax = c.servoMaxUs

/-- The six events of a pattern have nonzero one-hot masks, distinct lines, and cover all six lines, three on each
port (R70). -/
def Obligations.ExpandCoversTheSixLines : Prop :=
  ∀ (c : Config) (pat : Pattern), configValid c = true →
    (∀ k, ((expand c pat).get k).mask ≠ 0#3 ∧ ∃ b : Fin 3, ((expand c pat).get k).mask = 1#3 <<< b.val) ∧
    (∀ j k, j ≠ k → (((expand c pat).get j).port, ((expand c pat).get j).mask)
      ≠ (((expand c pat).get k).port, ((expand c pat).get k).mask)) ∧
    (∀ (p : Port) (b : Fin 3), ∃ k, ((expand c pat).get k).port = p ∧ ((expand c pat).get k).mask = 1#3 <<< b.val) ∧
    (∀ p : Port, (channels.filter (fun k => decide (((expand c pat).get k).port = p))).length = 3)

/-- With the default parameters every duration is 600 (dot down) or 1500 (dot up) (R71). -/
def Obligations.ReferenceDurations : Prop :=
  ∀ (pat : Pattern) (k : Fin 6),
    ((expand Config.reference pat).get k).dur = if pat.getLsbD k then 1500 else 600

/-- The stored event keeps port and mask and holds the duration clamped to the period, exactly; for the events of a
pattern the clamp changes nothing (R73). -/
def Obligations.ClampedDurationsAreExact : Prop :=
  ∀ c : Config, configValid c = true →
    (∀ (evs : Six RawEvent) (k : Fin 6), ((clampEvents c evs).get k).port = (evs.get k).port ∧
      ((clampEvents c evs).get k).mask = (evs.get k).mask ∧
      ((clampEvents c evs).get k).dur = min (evs.get k).dur c.periodUs) ∧
    (∀ (pat : Pattern) (k : Fin 6), ((clampEvents c (expand c pat)).get k).dur = ((expand c pat).get k).dur)

/-! ## The micro-operations (42_port_micro_ops.md) -/

/-- PSET (R95): its encoding, its effect and frame, and that M = 0 and a second PSET change nothing. -/
def Obligations.PsetSetsTheMaskedBits : Prop :=
  (∀ u : UopWord, u &&& 0xFEFFFFF8#32 = 0x10000000#32 →
    decode (.uop u) = .ok (.pset (if u.getLsbD 24 then .B else .A) (u.extractLsb' 0 3))) ∧
  (∀ (s : State) (p : Port) (m : Slice), ∃ t, exec (.pset p m) s = .next t ∧ t.port p = s.port p ||| m ∧
    (∀ q, q ≠ p → t.port q = s.port q) ∧ s.onlyLinesChange t ∧ exec (.pset p m) t = .next t) ∧
  (∀ (s : State) (p : Port), exec (.pset p 0#3) s = .next s)

/-- PCLR (R96): its encoding, its effect and frame, and that M = 0 and a second PCLR change nothing. -/
def Obligations.PclrClearsTheMaskedBits : Prop :=
  (∀ u : UopWord, u &&& 0xFEFFFFF8#32 = 0x20000000#32 →
    decode (.uop u) = .ok (.pclr (if u.getLsbD 24 then .B else .A) (u.extractLsb' 0 3))) ∧
  (∀ (s : State) (p : Port) (m : Slice), ∃ t, exec (.pclr p m) s = .next t ∧ t.port p = s.port p &&& ~~~m ∧
    (∀ q, q ≠ p → t.port q = s.port q) ∧ s.onlyLinesChange t ∧ exec (.pclr p m) t = .next t) ∧
  (∀ (s : State) (p : Port), exec (.pclr p 0#3) s = .next s)

/-- PREAD (R97): its encoding, its result, that nothing but the result changes, and that no frame issues it. That the result is left in a field
of its own is the model's choice, log entry 7. -/
def Obligations.PreadReturnsTheMaskedBits : Prop :=
  (∀ u : UopWord, u &&& 0xFEFFFFF8#32 = 0x30000000#32 →
    decode (.uop u) = .ok (.pread (if u.getLsbD 24 then .B else .A) (u.extractLsb' 0 3))) ∧
  (∀ (s : State) (p : Port) (m : Slice), ∃ t, exec (.pread p m) s = .next t ∧ t.result = s.port p &&& m ∧
    s.onlyResultChanges t) ∧
  (∀ (s : State) (p : Port) (m : Slice), s.nextUop ≠ some (.pread p m))

/-- WAIT (R98): its encoding, τ advances by n and nothing else changes; `wait 0` changes nothing. -/
def Obligations.WaitAdvancesTau : Prop :=
  (∀ u : UopWord, u &&& 0xFFFF0000#32 = 0x40000000#32 → decode (.uop u) = .ok (.wait (u.extractLsb' 0 16).toNat)) ∧
  (∀ (s : State) (n : Nat), ∃ t, exec (.wait n) s = .next t ∧ t.tau = s.tau + n ∧ s.onlyTauChanges t) ∧
  (∀ s : State, exec (.wait 0) s = .next s)

/-! ## The frame stream (41_frame_scheduler.md) -/

/-- With the reference tie order, σ is the one permutation of the slots in ascending (duration, slot index) order; with
any tie order it is a permutation in ascending duration (R75). -/
def Obligations.SigmaIsTheSortingPermutation : Prop :=
  (∀ (c : Config) (ev : Six ChannelEvent) (order : List (Fin 6)), c.tieRank = ⟨0, 1, 2, 3, 4, 5⟩ →
    (order = (sortEvents c ev).toList ↔ order.Perm channels ∧ order.Pairwise (clearedBefore ev))) ∧
  (∀ (c : Config) (ev : Six ChannelEvent), (sortEvents c ev).toList.Perm channels ∧
    (sortEvents c ev).toList.Pairwise (fun a b => (ev.get a).dur ≤ (ev.get b).dur))

/-- From the start of a frame the sequencer emits the 19 entries of `run_frame`, in order, and then nothing; and each is
performed at once, as `exec` performs it (R76). -/
def Obligations.SequencerEmitsTheFrameStream : Prop :=
  ∀ s : State, s.upc = 0 → s.elapsed = 0 → s.sigma = sortEvents s.cfg s.ev →
    (frameStream s.cfg s.ev).length = 19 ∧
    ∀ n, (Nat.iterate State.performEntry n s).nextUop = (frameStream s.cfg s.ev)[n]? ∧
      ∀ i, (frameStream s.cfg s.ev)[n]? = some i → ∃ t, exec i (Nat.iterate State.performEntry n s) = .next t ∧
        (Nat.iterate State.performEntry (n + 1) s).port = t.port ∧
        (Nat.iterate State.performEntry (n + 1) s).tau = t.tau

/-- The sequencer performs each entry it emits as `exec` performs that instruction, and nothing but its own index and
`elapsed` is written beside (R94). -/
def Obligations.SequencerPerformsByExec : Prop :=
  ∀ (s : State) (i : Instr), s.nextUop = some i →
    ∃ t, exec i s = .next t ∧ s.performEntry = { t with upc := nextIndex s.upc, elapsed := s.elapsedAfter }

/-- Each of a frame's seven WAIT operands is at most PERIOD_US, and they sum to exactly PERIOD_US (R77). An operand fits
WAIT's 16-bit field where the period does, as it does at the widths of D21; in wider registers a longer WAIT is the
model's choice, log entry 13. -/
def Obligations.WaitOperandsSumToThePeriod : Prop :=
  ∀ (c : Config) (evs : Six RawEvent), configValid c = true →
    (∀ n, Instr.wait n ∈ frameStream c (clampEvents c evs) → n ≤ c.periodUs ∧
      (c.periodUs ≤ 65535 → (Instr.wait n).wellFormed = true)) ∧
    ((frameStream c (clampEvents c evs)).filter isWait).length = 7 ∧
    ((frameStream c (clampEvents c evs)).map uopTicks).sum = c.periodUs

/-- Every PSET is performed at instant 0, and the PCLRs are exactly one per event, each at its event's own duration
(R79, R80). -/
def Obligations.EdgesFallAtTheirDurations : Prop :=
  ∀ (c : Config) (ev : Six ChannelEvent),
    (∀ τ p m, (τ, Instr.pset p m) ∈ withInstants 0 (frameStream c ev) → τ = 0) ∧
    (∀ k, (0, Instr.pset (ev.get k).port (ev.get k).mask) ∈ withInstants 0 (frameStream c ev)) ∧
    (∀ k, ((ev.get k).dur, Instr.pclr (ev.get k).port (ev.get k).mask) ∈ withInstants 0 (frameStream c ev)) ∧
    (∀ τ p m, (τ, Instr.pclr p m) ∈ withInstants 0 (frameStream c ev) →
      ∃ k, p = (ev.get k).port ∧ m = (ev.get k).mask ∧ τ = (ev.get k).dur)

/-- The stream's final WAIT is PERIOD_US less the largest duration: 19400 by default with every dot down, 18500 with any
dot up (R82). -/
def Obligations.PaddingIsWhatTheLongestPulseLeaves : Prop :=
  (∀ (c : Config) (evs : Six RawEvent), configValid c = true →
    ∃ (n : Nat) (k : Fin 6), (frameStream c (clampEvents c evs)).getLast? = some (.wait n) ∧
      (∀ j, ((clampEvents c evs).get j).dur ≤ ((clampEvents c evs).get k).dur) ∧
      n = c.periodUs - ((clampEvents c evs).get k).dur) ∧
  (∀ pat : Pattern, (frameStream Config.reference (clampEvents Config.reference (expand Config.reference pat))).getLast?
    = some (.wait (if pat = 0#6 then 19400 else 18500)))

/-- For every event set and every order that sorts the durations, ties in any order, the lines after the
micro-operations of instants up to τ are the closed form at τ (R78, R81, R84). -/
def Obligations.MicroOpsGiveTheClosedForm : Prop :=
  ∀ (c : Config) (ev : Six ChannelEvent) (order : List (Fin 6)) (tau : Nat), order.Perm channels →
    order.Pairwise (fun a b => (ev.get a).dur ≤ (ev.get b).dur) →
    portsByStream (streamInOrder c ev order) tau = (closedForm ev .A tau, closedForm ev .B tau)

/-! ## RENDER_FRAME (41_frame_scheduler.md) -/

/-- RENDER_FRAME in a ready block is accepted: what it writes, and that the parameters, the prescaler, PREAD's result
and the host's fields stay (R72). -/
def Obligations.RenderFrameStartsAFrame : Prop :=
  ∀ (s : State) (pat : Pattern), s.ready = true →
    ∃ t, exec (.renderFrame pat) s = .next t ∧ t.pat = pat ∧ t.ev = clampEvents s.cfg (expand s.cfg pat) ∧
      t.busy = true ∧ t.t = 0 ∧ t.done = s.ending ∧ t.ready = decide (s.cfg.periodUs = 1) ∧
      t.sigma = sortEvents t.cfg t.ev ∧ s.sameSurroundings t

/-- The frame that RENDER_FRAME starts shows, at its instant 0, the closed form; all six lines are high together where
the shortest pulse is not zero (R79). -/
def Obligations.RenderFrameRaisesAllLines : Prop :=
  ∀ (s : State) (pat : Pattern), s.Inv → s.ready = true →
    ∃ t, exec (.renderFrame pat) s = .next t ∧ t.portA = closedForm t.ev .A 0 ∧ t.portB = closedForm t.ev .B 0 ∧
      (1 ≤ s.cfg.servoMinUs → t.portA = 0b111#3 ∧ t.portB = 0b111#3)

/-- RENDER_FRAME in a block that is not ready waits: the running frame goes on by one tick, with the same pattern and
events (R90). -/
def Obligations.RenderFrameWaitsWhileNotReady : Prop :=
  ∀ (s : State) (pat : Pattern), s.ready = false →
    ∃ t, exec (.renderFrame pat) s = .next t ∧ t.t = s.nextTick ∧ t.busy = true ∧ t.done = false ∧ t.pat = s.pat ∧
      t.ev = s.ev ∧ t.sigma = s.sigma ∧ s.sameSurroundings t

/-! ## The step (41_frame_scheduler.md, 60_exceptions.md, 70_reset_and_hazards.md) -/

/-- A step of the block in service with a command word offered and no reset runs the instruction the word decodes to, once the host has gone on
to the next interval. -/
def Obligations.StepRunsTheOfferedCommand : Prop :=
  ∀ (s : State) (w : CmdWord) (i : Instr), configValid s.cfg = true → s.onBench = false → s.rst = false →
    s.offer = .word w → decode (.cmd w) = .ok i → step s = exec i s.nextInterval

/-- A step of a state that a test bench has, with no frame in progress, runs the instruction its next word decodes to
(R94). That it is a step of its own that takes no tick, that reset is not sampled there, and that with no word left the
state stays, is the model's choice, log entry 9. -/
def Obligations.StepRunsTheBenchMicroOp : Prop :=
  (∀ (s : State) (u : UopWord) (rest : List UopWord) (i : Instr), configValid s.cfg = true →
    s.bench = some (u :: rest) → s.busy = false → decode (.uop u) = .ok i →
    step s = exec i { s with bench := some rest }) ∧
  (∀ s : State, configValid s.cfg = true → s.bench = some [] → s.busy = false → step s = .next s)

/-- No other writer (R26, R43, R94): a step outside a test bench, in a frame or not, keeps what the bench has to run, and
changes the lines by reset or by performing entries of the stream, the present frame's and then the new one's. -/
def Obligations.OnlyTheStreamWritesTheLines : Prop :=
  ∀ s : State, configValid s.cfg = true → s.onBench = false →
    ∃ t, step s = .next t ∧ t.bench = s.bench ∧
      (s.rst = true → t.portA = 0#3 ∧ t.portB = 0#3) ∧
      (s.rst = false → ∃ m n, (Nat.iterate State.performEntry m s).port = t.port ∨
        (Nat.iterate State.performEntry n ((Nat.iterate State.performEntry m s).loadFrame t.ev)).port = t.port) ∧
      (s.rst = false → s.ready = false → ∃ m, (Nat.iterate State.performEntry m s).port = t.port) ∧
      (s.rst = false → s.busy = false → t.busy = false → t.port = s.port)

/-- A configuration that breaks a constraint of R8 builds no machine (R8). -/
def Obligations.InvalidConfigurationIsRefused : Prop :=
  ∀ c : Config, ¬ ConstraintsHold c → build c = .error .invalidConfiguration

/-- Every configuration that meets R8, at any width, builds a machine in its reset state; and a state whose configuration
does not pass takes no step, the model's choice, log entry 15. -/
def Obligations.ValidConfigurationBuilds : Prop :=
  (∀ c : Config, ConstraintsHold c → build c = .ok (State.resetFor c 0 [] [])) ∧
  (∀ (s : State) (r : Refusal), build s.cfg = .error r → step s = .refused r)

/-- Reset sampled at a boundary gives the reset state whatever the state and the offer were: a frame is cut with every
line low and no `frame_done`, and an offered command is not accepted (R104, R115, R116). -/
def Obligations.ResetWinsAtABoundary : Prop :=
  ∀ s : State, configValid s.cfg = true → s.onBench = false → s.rst = true →
    s.cmdReady = false ∧ ∃ t, step s = .next t ∧ t.busy = false ∧ t.t = 0 ∧ t.pat = 0#6 ∧ t.done = false ∧
      t.portA = 0#3 ∧ t.portB = 0#3 ∧ t.upc = 0 ∧ t.elapsed = 0 ∧ t.pre = 0 ∧ t.cfg = s.cfg ∧
      t.now = s.now + 1 ∧ t.resetAt = s.resetAt ∧ t.host = movesAfter s.now false s.host

/-- After reset the block is idle with all lines low, and can accept a command at the first boundary with `rst` = 0
(R115, R118). -/
def Obligations.ResetLeavesTheBlockIdle : Prop :=
  State.reset.block = ⟨false, 0, 0#6, State.reset.ev, 0#3, 0#3, false⟩ ∧ State.reset.upc = 0 ∧
    State.reset.elapsed = 0 ∧ State.reset.pre = 0 ∧ State.reset.cmdReady = true

/-- A reserved command is accepted as a handshake and has no other effect: no frame starts, the pattern and the events
stay, and the block stays idle, or finishes its frame and goes idle (R55). -/
def Obligations.ReservedCommandIsConsumed : Prop :=
  ∀ (s : State) (w : CmdWord), configValid s.cfg = true → s.onBench = false → s.offer = .word w →
    w.extractLsb' 12 4 ≠ 0b0001#4 → s.cmdReady = true →
    s.acceptedCommand = some w ∧ ∃ t, step s = .next t ∧ t.busy = false ∧ t.pat = s.pat ∧ t.ev = s.ev ∧
      t.done = s.ending ∧ t.t = (if s.ending then 0 else s.t) ∧ t.host = movesAfter s.now true s.host

/-- `done` = 1 after a boundary exactly when a frame ended there and no reset was sampled (R27). -/
def Obligations.DoneMarksAFrameEnd : Prop :=
  ∀ s : State, configValid s.cfg = true → s.onBench = false →
    ∃ t, step s = .next t ∧
      (t.done = true ↔ s.busy = true ∧ s.t + 1 = s.cfg.periodUs ∧ s.rst = false)

/-- A command offered while `cmd_ready` = 0 is neither accepted nor lost: it stays offered until it is accepted, unless
the host withdraws it (R90, R109). That one interval without an offer follows a withdrawal is the model's choice, log
entry 17. -/
def Obligations.OfferStaysUntilAccepted : Prop :=
  (∀ (s : State) (start : Nat) (w : CmdWord) (rest : List HostMove), configValid s.cfg = true →
    s.onBench = false → s.host = ⟨start, .offer w⟩ :: rest → start ≤ s.now →
    s.acceptedCommand = (if s.cmdReady then some w else none) ∧
    ∃ t, step s = .next t ∧ t.host = (if s.cmdReady then rest else s.host)) ∧
  (∀ (s : State) (start last : Nat) (w : CmdWord) (rest : List HostMove), configValid s.cfg = true →
    s.onBench = false → s.host = ⟨start, .offerUntil last w⟩ :: rest → start ≤ s.now →
    ∃ t, step s = .next t ∧
      t.host = (if s.cmdReady then rest else if last ≤ s.now then ⟨0, .pause⟩ :: rest else s.host))

/-- While the next micro-operation lies beyond the coming tick, a boundary inside a frame changes nothing but `t`,
`done` and the host's side: the lines keep the values the last micro-operation left (R99). -/
def Obligations.LinesHoldDuringAWait : Prop :=
  ∀ s : State, configValid s.cfg = true → s.onBench = false → s.rst = false → s.ready = false →
    s.nextTick < s.tau →
    ∃ t, step s = .next t ∧ t = { s.nextInterval with t := s.nextTick, done := false }

/-- No step changes a parameter: the block has no configuration register (R19). -/
def Obligations.ParametersNeverChange : Prop :=
  ∀ s t : State, step s = .next t → t.cfg = s.cfg

/-- `CLK_PER_US` clock cycles from a tick boundary make exactly one tick (R110, R126). -/
def Obligations.ClockCyclesMakeOneTick : Prop :=
  ∀ s : State, configValid s.cfg = true → s.onBench = false → s.pre = 0 →
    s.clockCycles Config.clkPerUs = step s ∧ ∀ t, step s = .next t → t.pre = 0

/-! ## Invariants and whole-machine rules -/

/-- The reset state of every machine that can be built meets the invariant. -/
def Obligations.ResetMeetsTheInvariant : Prop :=
  State.reset.Inv ∧ State.reset.PatternInv ∧ ∀ (c : Config) (s : State), build c = .ok s → s.Inv ∧ s.PatternInv

/-- Every step keeps the invariant (R22, R23, R29, R34, R75, R78). -/
def Obligations.StepKeepsTheInvariant : Prop :=
  ∀ s t : State, s.Inv → step s = .next t → t.Inv

/-- Each register is as wide as its parameter says, and no write truncates (R21, R29). -/
def Obligations.RegistersHoldWhatIsWritten : Prop :=
  (∀ (c : Config) (n : Nat), c.durReg n < 2 ^ c.durW ∧ c.tReg n < 2 ^ c.tW) ∧
  (∀ (c : Config) (n : Nat), configValid c = true → n ≤ c.periodUs → c.durReg n = n ∧ c.tReg n = n) ∧
  (∀ s : State, s.Inv → s.t < 2 ^ s.cfg.tW ∧ (s.busy = true → s.nextTick = s.t + 1 ∧
    ∀ k, (s.ev.get k).dur < 2 ^ s.cfg.durW))

/-- Every step keeps the events of a running frame those of the captured pattern, where the harness makes no move
(R25). -/
def Obligations.StepKeepsThePatternsEvents : Prop :=
  ∀ s t : State, s.PatternInv → step s = .next t → t.PatternInv

/-- While idle all lines are low; in a frame, line k is high exactly while `t` is below its event's duration (R34). -/
def Obligations.LinesFollowTheDurations : Prop :=
  ∀ s : State, s.Inv → s.PatternInv →
    (s.busy = false → s.portA = 0#3 ∧ s.portB = 0#3) ∧
    (s.busy = true → ∀ k : Fin 6, s.lineOf k = decide (s.t < (s.ev.get k).dur))

/-- Every step of the block is R87's `Next` on the architectural fields, whatever a reset leaves in the event slots, and
the host's offer is consumed exactly when it is accepted. -/
def Obligations.StepRefinesNext : Prop :=
  ∀ s : State, s.Inv → (∀ evs, s.offer ≠ .events evs) →
    ∃ t unspecified, step s = .next t ∧ t.block = BlockState.next unspecified s.cfg s.block s.inputs ∧
      t.host = movesAfter s.now s.accepts s.host ∧
      s.accepts = (s.inputs.cmdValid && (!s.inputs.rst && s.ready))

/-- Inside a frame nothing the host offers has any effect: two states that differ only in the host's moves take the same
step (R47, R88). -/
def Obligations.RunningFrameIgnoresOffers : Prop :=
  ∀ (s : State) (other : List HostMove), s.Inv → s.ready = false →
    ∃ t u, step s = .next t ∧ step { s with host := other } = .next u ∧ u = { t with host := u.host }

/-- A frame not cut by reset runs on tick by tick to `t` = PERIOD_US - 1, with its pattern and events unchanged, and ends
at the next boundary (R83). -/
def Obligations.FrameOccupiesItsPeriod : Prop :=
  ∀ s : State, s.Inv → s.busy = true → s.t = 0 → s.noResetFor s.cfg.periodUs →
    (∀ n, n < s.cfg.periodUs → ∃ u : State, core.run n s = .next u ∧ u.busy = true ∧ u.t = n ∧ u.pat = s.pat ∧
      u.ev = s.ev) ∧
    ∃ u : State, core.run s.cfg.periodUs s = .next u ∧ u.done = true ∧ u.t = 0

/-- A RENDER_FRAME kept offered is accepted after PERIOD_US - t intervals of a running frame, or at once by an idle
block, and its frame's first interval is the next (R121). -/
def Obligations.HeldCommandStartsAtTheFrameBoundary : Prop :=
  ∀ (s : State) (start : Nat) (w : CmdWord) (rest : List HostMove), s.Inv → s.host = ⟨start, .offer w⟩ :: rest →
    start ≤ s.now → w.extractLsb' 12 4 = 0b0001#4 →
    (s.busy = true → s.noResetFor (s.cfg.periodUs - s.t) →
      ∃ u : State, core.run (s.cfg.periodUs - s.t) s = .next u ∧
        u.now = s.now + (s.cfg.periodUs - s.t) ∧ u.busy = true ∧ u.t = 0 ∧
        u.pat = w.extractLsb' 0 6 ∧ u.done = true ∧ u.host = rest) ∧
    (s.busy = false → s.noResetFor 1 →
      ∃ u : State, core.run 1 s = .next u ∧ u.busy = true ∧ u.t = 0 ∧ u.pat = w.extractLsb' 0 6 ∧ u.host = rest)

/-- k RENDER_FRAME commands, each offered in time, take exactly k · PERIOD_US intervals from the first frame's start to
the last frame's end, back to back, each frame with its own command's pattern (R89, R124). -/
def Obligations.FramesRunBackToBack : Prop :=
  ∀ (s : State) (ws : List CmdWord), s.Inv → s.busy = false → s.resetAt = [] → ws ≠ [] →
    (∀ w ∈ ws, w.extractLsb' 12 4 = 0b0001#4) → s.host = ws.map (fun w => ⟨0, .offer w⟩) →
    (∀ n, n < ws.length * s.cfg.periodUs → ∃ u : State, core.run (n + 1) s = .next u ∧ u.busy = true ∧
      u.t = n % s.cfg.periodUs ∧ ∃ w, ws[n / s.cfg.periodUs]? = some w ∧ u.pat = w.extractLsb' 0 6) ∧
    ∃ u : State, core.run (ws.length * s.cfg.periodUs + 1) s = .next u ∧ u.busy = false ∧ u.done = true ∧ u.host = []

/-- The block never starts a frame by itself: at a boundary where no RENDER_FRAME is offered, an idle block stays idle
and a frame that ends leaves it idle, with all lines low (R91). -/
def Obligations.IdleUntilACommand : Prop :=
  ∀ s : State, s.Inv → s.ready = true →
    (s.offer = .nothing ∨ ∃ w, s.offer = .word w ∧ w.extractLsb' 12 4 ≠ 0b0001#4) →
    ∃ t, step s = .next t ∧ t.busy = false ∧ t.t = 0 ∧ t.portA = 0#3 ∧ t.portB = 0#3
end

