-- ==== Sys2Proof/Laws/Elaborate.lean ====
section
/-! SUPPORT. What a valid configuration says (R8), as plain inequalities, and what a register holds of a value in
its range (R29). -/

namespace Sys2Proof.Machine

/-- What the checks of a configuration say. -/
structure ConfigFacts (c : Config) : Prop where
  min_le_max : c.servoMinUs ≤ c.servoMaxUs
  max_le_period : c.servoMaxUs ≤ c.periodUs
  period_pos : 1 ≤ c.periodUs
  period_t : c.periodUs ≤ 2 ^ c.tW - 1
  period_dur : c.periodUs ≤ 2 ^ c.durW - 1
  angle_pos : 1 ≤ c.angleMax
  off_le : c.angleOff ≤ c.angleMax
  on_le : c.angleOn ≤ c.angleMax
  wiring_nodup : c.wiring.toList.Nodup

theorem configFacts {c : Config} (h : configValid c = true) : ConfigFacts c := by
  simp only [configValid, wiringBijective, Bool.and_eq_true, decide_eq_true_eq] at h
  obtain ⟨⟨⟨⟨⟨⟨⟨⟨h1, h2⟩, h3⟩, h4⟩, h5⟩, h6⟩, h7⟩, h8⟩, h9⟩ := h
  exact ⟨h1, h2, h3, h4, h5, h6, h7, h8, h9⟩

/-- A value that fits a duration register is held as it is (R29). -/
theorem durReg_of_lt {c : Config} {n : Nat} (h : n < 2 ^ c.durW) : c.durReg n = n := Nat.mod_eq_of_lt h

/-- A value that fits the tick counter is held as it is (R29). -/
theorem tReg_of_lt {c : Config} {n : Nat} (h : n < 2 ^ c.tW) : c.tReg n = n := Nat.mod_eq_of_lt h

/-- Under R8, the bound below a register's width that every in-range write meets (R29). -/
theorem ConfigFacts.period_lt {c : Config} (h : ConfigFacts c) : c.periodUs < 2 ^ c.durW ∧ c.periodUs < 2 ^ c.tW := by
  have hd := h.period_dur
  have ht := h.period_t
  have hp := h.period_pos
  constructor <;> omega

end Sys2Proof.Machine
end

