-- ==== Sys2Proof/Laws/State.lean ====
section
/-! SUPPORT. The small lemmas of State: what each operation leaves in each field, and the port laws. A later proof
rewrites with these and unfolds no record update. -/

namespace Sys2Proof.Machine

/-! ## Rows of six -/

@[simp] theorem Six_get_ofFn {α : Type} (f : Fin 6 → α) (k : Fin 6) : (Six.ofFn f).get k = f k := by
  match k with
  | 0 | 1 | 2 | 3 | 4 | 5 => rfl

theorem Six_get_mem {α : Type} (v : Six α) (k : Fin 6) : v.get k ∈ v.toList := by
  match k with
  | 0 | 1 | 2 | 3 | 4 | 5 => simp [Six.get, Six.toList]

theorem Six_ext {α : Type} {v w : Six α} (h : ∀ k, v.get k = w.get k) : v = w := by
  have h0 := h 0; have h1 := h 1; have h2 := h 2; have h3 := h 3; have h4 := h 4; have h5 := h 5
  cases v; cases w
  simp only [Six.get] at h0 h1 h2 h3 h4 h5
  simp [h0, h1, h2, h3, h4, h5]

theorem mem_channels (k : Fin 6) : k ∈ channels := by
  revert k; decide

/-! ## Reading and writing a port (R38) -/

@[simp] theorem port_setPort_self (s : State) (p : Port) (v : Slice) : (s.setPort p v).port p = v := by
  cases p <;> rfl

theorem port_setPort_other (s : State) (p q : Port) (v : Slice) (h : q ≠ p) : (s.setPort p v).port q = s.port q := by
  cases p <;> cases q <;> first | rfl | exact absurd rfl h

@[simp] theorem port_setBits_self (s : State) (p : Port) (m : Slice) : (s.setBits p m).port p = s.port p ||| m := by
  simp [State.setBits]

theorem port_setBits_other (s : State) (p q : Port) (m : Slice) (h : q ≠ p) :
    (s.setBits p m).port q = s.port q := by
  simp [State.setBits, port_setPort_other, h]

@[simp] theorem port_clearBits_self (s : State) (p : Port) (m : Slice) :
    (s.clearBits p m).port p = s.port p &&& ~~~m := by
  simp [State.clearBits]

theorem port_clearBits_other (s : State) (p q : Port) (m : Slice) (h : q ≠ p) :
    (s.clearBits p m).port q = s.port q := by
  simp [State.clearBits, port_setPort_other, h]

/-! ## setPort: every field but the slices -/

@[simp] theorem setPort_cfg (s : State) (p : Port) (v : Slice) : (s.setPort p v).cfg = s.cfg := rfl
@[simp] theorem setPort_busy (s : State) (p : Port) (v : Slice) : (s.setPort p v).busy = s.busy := rfl
@[simp] theorem setPort_t (s : State) (p : Port) (v : Slice) : (s.setPort p v).t = s.t := rfl
@[simp] theorem setPort_pat (s : State) (p : Port) (v : Slice) : (s.setPort p v).pat = s.pat := rfl
@[simp] theorem setPort_ev (s : State) (p : Port) (v : Slice) : (s.setPort p v).ev = s.ev := rfl
@[simp] theorem setPort_done (s : State) (p : Port) (v : Slice) : (s.setPort p v).done = s.done := rfl
@[simp] theorem setPort_upc (s : State) (p : Port) (v : Slice) : (s.setPort p v).upc = s.upc := rfl
@[simp] theorem setPort_elapsed (s : State) (p : Port) (v : Slice) : (s.setPort p v).elapsed = s.elapsed := rfl
@[simp] theorem setPort_sigma (s : State) (p : Port) (v : Slice) : (s.setPort p v).sigma = s.sigma := rfl
@[simp] theorem setPort_pre (s : State) (p : Port) (v : Slice) : (s.setPort p v).pre = s.pre := rfl
@[simp] theorem setPort_tau (s : State) (p : Port) (v : Slice) : (s.setPort p v).tau = s.tau := rfl
@[simp] theorem setPort_result (s : State) (p : Port) (v : Slice) : (s.setPort p v).result = s.result := rfl
@[simp] theorem setPort_now (s : State) (p : Port) (v : Slice) : (s.setPort p v).now = s.now := rfl
@[simp] theorem setPort_resetAt (s : State) (p : Port) (v : Slice) : (s.setPort p v).resetAt = s.resetAt := rfl
@[simp] theorem setPort_host (s : State) (p : Port) (v : Slice) : (s.setPort p v).host = s.host := rfl
@[simp] theorem setPort_bench (s : State) (p : Port) (v : Slice) : (s.setPort p v).bench = s.bench := rfl

/-! ## setBits: every field but the slices -/

@[simp] theorem setBits_cfg (s : State) (p : Port) (m : Slice) : (s.setBits p m).cfg = s.cfg := rfl
@[simp] theorem setBits_busy (s : State) (p : Port) (m : Slice) : (s.setBits p m).busy = s.busy := rfl
@[simp] theorem setBits_t (s : State) (p : Port) (m : Slice) : (s.setBits p m).t = s.t := rfl
@[simp] theorem setBits_pat (s : State) (p : Port) (m : Slice) : (s.setBits p m).pat = s.pat := rfl
@[simp] theorem setBits_ev (s : State) (p : Port) (m : Slice) : (s.setBits p m).ev = s.ev := rfl
@[simp] theorem setBits_done (s : State) (p : Port) (m : Slice) : (s.setBits p m).done = s.done := rfl
@[simp] theorem setBits_upc (s : State) (p : Port) (m : Slice) : (s.setBits p m).upc = s.upc := rfl
@[simp] theorem setBits_elapsed (s : State) (p : Port) (m : Slice) : (s.setBits p m).elapsed = s.elapsed := rfl
@[simp] theorem setBits_sigma (s : State) (p : Port) (m : Slice) : (s.setBits p m).sigma = s.sigma := rfl
@[simp] theorem setBits_pre (s : State) (p : Port) (m : Slice) : (s.setBits p m).pre = s.pre := rfl
@[simp] theorem setBits_tau (s : State) (p : Port) (m : Slice) : (s.setBits p m).tau = s.tau := rfl
@[simp] theorem setBits_result (s : State) (p : Port) (m : Slice) : (s.setBits p m).result = s.result := rfl
@[simp] theorem setBits_now (s : State) (p : Port) (m : Slice) : (s.setBits p m).now = s.now := rfl
@[simp] theorem setBits_resetAt (s : State) (p : Port) (m : Slice) : (s.setBits p m).resetAt = s.resetAt := rfl
@[simp] theorem setBits_host (s : State) (p : Port) (m : Slice) : (s.setBits p m).host = s.host := rfl
@[simp] theorem setBits_bench (s : State) (p : Port) (m : Slice) : (s.setBits p m).bench = s.bench := rfl

/-! ## clearBits: every field but the slices -/

@[simp] theorem clearBits_cfg (s : State) (p : Port) (m : Slice) : (s.clearBits p m).cfg = s.cfg := rfl
@[simp] theorem clearBits_busy (s : State) (p : Port) (m : Slice) : (s.clearBits p m).busy = s.busy := rfl
@[simp] theorem clearBits_t (s : State) (p : Port) (m : Slice) : (s.clearBits p m).t = s.t := rfl
@[simp] theorem clearBits_pat (s : State) (p : Port) (m : Slice) : (s.clearBits p m).pat = s.pat := rfl
@[simp] theorem clearBits_ev (s : State) (p : Port) (m : Slice) : (s.clearBits p m).ev = s.ev := rfl
@[simp] theorem clearBits_done (s : State) (p : Port) (m : Slice) : (s.clearBits p m).done = s.done := rfl
@[simp] theorem clearBits_upc (s : State) (p : Port) (m : Slice) : (s.clearBits p m).upc = s.upc := rfl
@[simp] theorem clearBits_elapsed (s : State) (p : Port) (m : Slice) : (s.clearBits p m).elapsed = s.elapsed := rfl
@[simp] theorem clearBits_sigma (s : State) (p : Port) (m : Slice) : (s.clearBits p m).sigma = s.sigma := rfl
@[simp] theorem clearBits_pre (s : State) (p : Port) (m : Slice) : (s.clearBits p m).pre = s.pre := rfl
@[simp] theorem clearBits_tau (s : State) (p : Port) (m : Slice) : (s.clearBits p m).tau = s.tau := rfl
@[simp] theorem clearBits_result (s : State) (p : Port) (m : Slice) : (s.clearBits p m).result = s.result := rfl
@[simp] theorem clearBits_now (s : State) (p : Port) (m : Slice) : (s.clearBits p m).now = s.now := rfl
@[simp] theorem clearBits_resetAt (s : State) (p : Port) (m : Slice) : (s.clearBits p m).resetAt = s.resetAt := rfl
@[simp] theorem clearBits_host (s : State) (p : Port) (m : Slice) : (s.clearBits p m).host = s.host := rfl
@[simp] theorem clearBits_bench (s : State) (p : Port) (m : Slice) : (s.clearBits p m).bench = s.bench := rfl

/-! ## setResult -/

@[simp] theorem setResult_cfg (s : State) (v : Slice) : (s.setResult v).cfg = s.cfg := rfl
@[simp] theorem setResult_busy (s : State) (v : Slice) : (s.setResult v).busy = s.busy := rfl
@[simp] theorem setResult_t (s : State) (v : Slice) : (s.setResult v).t = s.t := rfl
@[simp] theorem setResult_pat (s : State) (v : Slice) : (s.setResult v).pat = s.pat := rfl
@[simp] theorem setResult_ev (s : State) (v : Slice) : (s.setResult v).ev = s.ev := rfl
@[simp] theorem setResult_portA (s : State) (v : Slice) : (s.setResult v).portA = s.portA := rfl
@[simp] theorem setResult_portB (s : State) (v : Slice) : (s.setResult v).portB = s.portB := rfl
@[simp] theorem setResult_done (s : State) (v : Slice) : (s.setResult v).done = s.done := rfl
@[simp] theorem setResult_upc (s : State) (v : Slice) : (s.setResult v).upc = s.upc := rfl
@[simp] theorem setResult_elapsed (s : State) (v : Slice) : (s.setResult v).elapsed = s.elapsed := rfl
@[simp] theorem setResult_sigma (s : State) (v : Slice) : (s.setResult v).sigma = s.sigma := rfl
@[simp] theorem setResult_pre (s : State) (v : Slice) : (s.setResult v).pre = s.pre := rfl
@[simp] theorem setResult_tau (s : State) (v : Slice) : (s.setResult v).tau = s.tau := rfl
@[simp] theorem setResult_result (s : State) (v : Slice) : (s.setResult v).result = v := rfl
@[simp] theorem setResult_now (s : State) (v : Slice) : (s.setResult v).now = s.now := rfl
@[simp] theorem setResult_resetAt (s : State) (v : Slice) : (s.setResult v).resetAt = s.resetAt := rfl
@[simp] theorem setResult_host (s : State) (v : Slice) : (s.setResult v).host = s.host := rfl
@[simp] theorem setResult_bench (s : State) (v : Slice) : (s.setResult v).bench = s.bench := rfl

/-! ## waitTicks -/

@[simp] theorem waitTicks_cfg (s : State) (n : Nat) : (s.waitTicks n).cfg = s.cfg := rfl
@[simp] theorem waitTicks_busy (s : State) (n : Nat) : (s.waitTicks n).busy = s.busy := rfl
@[simp] theorem waitTicks_t (s : State) (n : Nat) : (s.waitTicks n).t = s.t := rfl
@[simp] theorem waitTicks_pat (s : State) (n : Nat) : (s.waitTicks n).pat = s.pat := rfl
@[simp] theorem waitTicks_ev (s : State) (n : Nat) : (s.waitTicks n).ev = s.ev := rfl
@[simp] theorem waitTicks_portA (s : State) (n : Nat) : (s.waitTicks n).portA = s.portA := rfl
@[simp] theorem waitTicks_portB (s : State) (n : Nat) : (s.waitTicks n).portB = s.portB := rfl
@[simp] theorem waitTicks_done (s : State) (n : Nat) : (s.waitTicks n).done = s.done := rfl
@[simp] theorem waitTicks_upc (s : State) (n : Nat) : (s.waitTicks n).upc = s.upc := rfl
@[simp] theorem waitTicks_elapsed (s : State) (n : Nat) : (s.waitTicks n).elapsed = s.elapsed := rfl
@[simp] theorem waitTicks_sigma (s : State) (n : Nat) : (s.waitTicks n).sigma = s.sigma := rfl
@[simp] theorem waitTicks_pre (s : State) (n : Nat) : (s.waitTicks n).pre = s.pre := rfl
@[simp] theorem waitTicks_tau (s : State) (n : Nat) : (s.waitTicks n).tau = s.tau + n := rfl
@[simp] theorem waitTicks_result (s : State) (n : Nat) : (s.waitTicks n).result = s.result := rfl
@[simp] theorem waitTicks_now (s : State) (n : Nat) : (s.waitTicks n).now = s.now := rfl
@[simp] theorem waitTicks_resetAt (s : State) (n : Nat) : (s.waitTicks n).resetAt = s.resetAt := rfl
@[simp] theorem waitTicks_host (s : State) (n : Nat) : (s.waitTicks n).host = s.host := rfl
@[simp] theorem waitTicks_bench (s : State) (n : Nat) : (s.waitTicks n).bench = s.bench := rfl

/-! ## setDone -/

@[simp] theorem setDone_cfg (s : State) (d : Bool) : (s.setDone d).cfg = s.cfg := rfl
@[simp] theorem setDone_busy (s : State) (d : Bool) : (s.setDone d).busy = s.busy := rfl
@[simp] theorem setDone_t (s : State) (d : Bool) : (s.setDone d).t = s.t := rfl
@[simp] theorem setDone_pat (s : State) (d : Bool) : (s.setDone d).pat = s.pat := rfl
@[simp] theorem setDone_ev (s : State) (d : Bool) : (s.setDone d).ev = s.ev := rfl
@[simp] theorem setDone_portA (s : State) (d : Bool) : (s.setDone d).portA = s.portA := rfl
@[simp] theorem setDone_portB (s : State) (d : Bool) : (s.setDone d).portB = s.portB := rfl
@[simp] theorem setDone_done (s : State) (d : Bool) : (s.setDone d).done = d := rfl
@[simp] theorem setDone_upc (s : State) (d : Bool) : (s.setDone d).upc = s.upc := rfl
@[simp] theorem setDone_elapsed (s : State) (d : Bool) : (s.setDone d).elapsed = s.elapsed := rfl
@[simp] theorem setDone_sigma (s : State) (d : Bool) : (s.setDone d).sigma = s.sigma := rfl
@[simp] theorem setDone_pre (s : State) (d : Bool) : (s.setDone d).pre = s.pre := rfl
@[simp] theorem setDone_tau (s : State) (d : Bool) : (s.setDone d).tau = s.tau := rfl
@[simp] theorem setDone_result (s : State) (d : Bool) : (s.setDone d).result = s.result := rfl
@[simp] theorem setDone_now (s : State) (d : Bool) : (s.setDone d).now = s.now := rfl
@[simp] theorem setDone_resetAt (s : State) (d : Bool) : (s.setDone d).resetAt = s.resetAt := rfl
@[simp] theorem setDone_host (s : State) (d : Bool) : (s.setDone d).host = s.host := rfl
@[simp] theorem setDone_bench (s : State) (d : Bool) : (s.setDone d).bench = s.bench := rfl

/-! ## loadFrame -/

@[simp] theorem loadFrame_cfg (s : State) (ev : Six ChannelEvent) : (s.loadFrame ev).cfg = s.cfg := rfl
@[simp] theorem loadFrame_busy (s : State) (ev : Six ChannelEvent) : (s.loadFrame ev).busy = true := rfl
@[simp] theorem loadFrame_t (s : State) (ev : Six ChannelEvent) : (s.loadFrame ev).t = 0 := rfl
@[simp] theorem loadFrame_pat (s : State) (ev : Six ChannelEvent) : (s.loadFrame ev).pat = s.pat := rfl
@[simp] theorem loadFrame_ev (s : State) (ev : Six ChannelEvent) : (s.loadFrame ev).ev = ev := rfl
@[simp] theorem loadFrame_portA (s : State) (ev : Six ChannelEvent) : (s.loadFrame ev).portA = s.portA := rfl
@[simp] theorem loadFrame_portB (s : State) (ev : Six ChannelEvent) : (s.loadFrame ev).portB = s.portB := rfl
@[simp] theorem loadFrame_done (s : State) (ev : Six ChannelEvent) : (s.loadFrame ev).done = s.done := rfl
@[simp] theorem loadFrame_upc (s : State) (ev : Six ChannelEvent) : (s.loadFrame ev).upc = 0 := rfl
@[simp] theorem loadFrame_elapsed (s : State) (ev : Six ChannelEvent) : (s.loadFrame ev).elapsed = 0 := rfl
@[simp] theorem loadFrame_sigma (s : State) (ev : Six ChannelEvent) : (s.loadFrame ev).sigma = sortEvents s.cfg ev := rfl
@[simp] theorem loadFrame_pre (s : State) (ev : Six ChannelEvent) : (s.loadFrame ev).pre = s.pre := rfl
@[simp] theorem loadFrame_tau (s : State) (ev : Six ChannelEvent) : (s.loadFrame ev).tau = 0 := rfl
@[simp] theorem loadFrame_result (s : State) (ev : Six ChannelEvent) : (s.loadFrame ev).result = s.result := rfl
@[simp] theorem loadFrame_now (s : State) (ev : Six ChannelEvent) : (s.loadFrame ev).now = s.now := rfl
@[simp] theorem loadFrame_resetAt (s : State) (ev : Six ChannelEvent) : (s.loadFrame ev).resetAt = s.resetAt := rfl
@[simp] theorem loadFrame_host (s : State) (ev : Six ChannelEvent) : (s.loadFrame ev).host = s.host := rfl
@[simp] theorem loadFrame_bench (s : State) (ev : Six ChannelEvent) : (s.loadFrame ev).bench = s.bench := rfl

/-! ## nextInterval -/

@[simp] theorem nextInterval_cfg (s : State) : (s.nextInterval).cfg = s.cfg := rfl
@[simp] theorem nextInterval_busy (s : State) : (s.nextInterval).busy = s.busy := rfl
@[simp] theorem nextInterval_t (s : State) : (s.nextInterval).t = s.t := rfl
@[simp] theorem nextInterval_pat (s : State) : (s.nextInterval).pat = s.pat := rfl
@[simp] theorem nextInterval_ev (s : State) : (s.nextInterval).ev = s.ev := rfl
@[simp] theorem nextInterval_portA (s : State) : (s.nextInterval).portA = s.portA := rfl
@[simp] theorem nextInterval_portB (s : State) : (s.nextInterval).portB = s.portB := rfl
@[simp] theorem nextInterval_done (s : State) : (s.nextInterval).done = s.done := rfl
@[simp] theorem nextInterval_upc (s : State) : (s.nextInterval).upc = s.upc := rfl
@[simp] theorem nextInterval_elapsed (s : State) : (s.nextInterval).elapsed = s.elapsed := rfl
@[simp] theorem nextInterval_sigma (s : State) : (s.nextInterval).sigma = s.sigma := rfl
@[simp] theorem nextInterval_pre (s : State) : (s.nextInterval).pre = s.pre := rfl
@[simp] theorem nextInterval_tau (s : State) : (s.nextInterval).tau = s.tau := rfl
@[simp] theorem nextInterval_result (s : State) : (s.nextInterval).result = s.result := rfl
@[simp] theorem nextInterval_now (s : State) : (s.nextInterval).now = s.now + 1 := rfl
@[simp] theorem nextInterval_resetAt (s : State) : (s.nextInterval).resetAt = s.resetAt := rfl
@[simp] theorem nextInterval_host (s : State) : (s.nextInterval).host = movesAfter s.now s.accepts s.host := rfl
@[simp] theorem nextInterval_bench (s : State) : (s.nextInterval).bench = s.bench := rfl

/-! ## takeReset (R115) -/

@[simp] theorem takeReset_cfg (s : State) : (s.takeReset).cfg = s.cfg := rfl
@[simp] theorem takeReset_busy (s : State) : (s.takeReset).busy = false := rfl
@[simp] theorem takeReset_t (s : State) : (s.takeReset).t = 0 := rfl
@[simp] theorem takeReset_pat (s : State) : (s.takeReset).pat = 0#6 := rfl
@[simp] theorem takeReset_portA (s : State) : (s.takeReset).portA = 0#3 := rfl
@[simp] theorem takeReset_portB (s : State) : (s.takeReset).portB = 0#3 := rfl
@[simp] theorem takeReset_done (s : State) : (s.takeReset).done = false := rfl
@[simp] theorem takeReset_upc (s : State) : (s.takeReset).upc = 0 := rfl
@[simp] theorem takeReset_elapsed (s : State) : (s.takeReset).elapsed = 0 := rfl
@[simp] theorem takeReset_sigma (s : State) : (s.takeReset).sigma = Six.identity := rfl
@[simp] theorem takeReset_pre (s : State) : (s.takeReset).pre = 0 := rfl
@[simp] theorem takeReset_tau (s : State) : (s.takeReset).tau = 0 := rfl
@[simp] theorem takeReset_result (s : State) : (s.takeReset).result = 0#3 := rfl
@[simp] theorem takeReset_now (s : State) : (s.takeReset).now = s.now := rfl
@[simp] theorem takeReset_resetAt (s : State) : (s.takeReset).resetAt = s.resetAt := rfl
@[simp] theorem takeReset_host (s : State) : (s.takeReset).host = s.host := rfl
@[simp] theorem takeReset_bench (s : State) : (s.takeReset).bench = s.bench := rfl

/-! ## advanceIndex -/

@[simp] theorem advanceIndex_cfg (s : State) : (s.advanceIndex).cfg = s.cfg := rfl
@[simp] theorem advanceIndex_busy (s : State) : (s.advanceIndex).busy = s.busy := rfl
@[simp] theorem advanceIndex_t (s : State) : (s.advanceIndex).t = s.t := rfl
@[simp] theorem advanceIndex_pat (s : State) : (s.advanceIndex).pat = s.pat := rfl
@[simp] theorem advanceIndex_ev (s : State) : (s.advanceIndex).ev = s.ev := rfl
@[simp] theorem advanceIndex_portA (s : State) : (s.advanceIndex).portA = s.portA := rfl
@[simp] theorem advanceIndex_portB (s : State) : (s.advanceIndex).portB = s.portB := rfl
@[simp] theorem advanceIndex_done (s : State) : (s.advanceIndex).done = s.done := rfl
@[simp] theorem advanceIndex_upc (s : State) : (s.advanceIndex).upc = nextIndex s.upc := rfl
@[simp] theorem advanceIndex_elapsed (s : State) : (s.advanceIndex).elapsed = s.elapsedAfter := rfl
@[simp] theorem advanceIndex_sigma (s : State) : (s.advanceIndex).sigma = s.sigma := rfl
@[simp] theorem advanceIndex_pre (s : State) : (s.advanceIndex).pre = s.pre := rfl
@[simp] theorem advanceIndex_tau (s : State) : (s.advanceIndex).tau = s.tau := rfl
@[simp] theorem advanceIndex_result (s : State) : (s.advanceIndex).result = s.result := rfl
@[simp] theorem advanceIndex_now (s : State) : (s.advanceIndex).now = s.now := rfl
@[simp] theorem advanceIndex_resetAt (s : State) : (s.advanceIndex).resetAt = s.resetAt := rfl
@[simp] theorem advanceIndex_host (s : State) : (s.advanceIndex).host = s.host := rfl
@[simp] theorem advanceIndex_bench (s : State) : (s.advanceIndex).bench = s.bench := rfl

/-- The host's side of a boundary leaves the tick counter alone. -/
@[simp] theorem nextInterval_nextTick (s : State) : s.nextInterval.nextTick = s.nextTick := rfl

end Sys2Proof.Machine
end

