-- ==== Sys2Proof/Laws/Sequencer.lean ====
section
/-! SUPPORT. The sequencer: what performing entries leaves unchanged, when nothing is left to perform, and that
performing up to one instant and then up to a later one is performing up to the later one. -/

namespace Sys2Proof.Machine

/-- A micro-operation is left exactly while the index is short of the stream's length (R30, R76). -/
theorem nextUop_isSome (s : State) : s.nextUop.isSome = decide (s.upc.val < 19) := by
  have h : ∀ u : Fin 20, decide (u.val < 19) = match streamEntry u with
      | .rise _ => true | .await _ => true | .fall _ => true | .pad => true | .finished => false := by decide
  rw [h]
  unfold State.nextUop
  cases streamEntry s.upc <;> rfl

theorem nextIndex_val {u : Fin 20} (h : u.val < 19) : (nextIndex u).val = u.val + 1 := by
  simp [nextIndex, h]

@[simp] theorem performUop_upc (s : State) (i : Instr) : (s.performUop i).upc = s.upc := by
  cases i <;> simp [State.performUop]

theorem due_iff (s : State) (limit : Nat) : s.due limit = true ↔ s.upc.val < 19 ∧ s.tau ≤ limit := by
  simp [State.due, nextUop_isSome]

theorem performEntry_upc {s : State} (h : s.upc.val < 19) : s.performEntry.upc.val = s.upc.val + 1 := by
  have hs : s.nextUop.isSome = true := by simp [nextUop_isSome, h]
  obtain ⟨i, hi⟩ := Option.isSome_iff_exists.mp hs
  simp [State.performEntry, hi, nextIndex_val h]

/-- What the sequencer never emits: a PREAD or a RENDER_FRAME (R57, R97). -/
theorem nextUop_kind {s : State} {i : Instr} (h : s.nextUop = some i) :
    (∃ p m, i = .pset p m) ∨ (∃ p m, i = .pclr p m) ∨ ∃ n, i = .wait n := by
  unfold State.nextUop at h
  split at h <;> cases h
  · exact .inl ⟨_, _, rfl⟩
  · exact .inr (.inr ⟨_, rfl⟩)
  · exact .inr (.inl ⟨_, _, rfl⟩)
  · exact .inr (.inr ⟨_, rfl⟩)

/-- Two states that differ only in the fields the sequencer writes: its index, `elapsed`, τ and the two slices. -/
structure SameButSequencer (s s' : State) : Prop where
  cfg : s'.cfg = s.cfg
  busy : s'.busy = s.busy
  t : s'.t = s.t
  pat : s'.pat = s.pat
  ev : s'.ev = s.ev
  done : s'.done = s.done
  sigma : s'.sigma = s.sigma
  pre : s'.pre = s.pre
  result : s'.result = s.result
  now : s'.now = s.now
  resetAt : s'.resetAt = s.resetAt
  host : s'.host = s.host
  bench : s'.bench = s.bench

theorem SameButSequencer.refl (s : State) : SameButSequencer s s := by
  constructor <;> rfl

theorem SameButSequencer.trans {a b c : State} (h : SameButSequencer a b) (k : SameButSequencer b c) :
    SameButSequencer a c := by
  cases h; cases k; constructor <;> simp_all

theorem performEntry_same (s : State) : SameButSequencer s s.performEntry := by
  unfold State.performEntry
  cases h : s.nextUop with
  | none => exact SameButSequencer.refl s
  | some i =>
    rcases nextUop_kind h with ⟨p, m, rfl⟩ | ⟨p, m, rfl⟩ | ⟨n, rfl⟩ <;> constructor <;> simp [State.performUop]

theorem performUpTo_same (limit fuel : Nat) (s : State) : SameButSequencer s (State.performUpTo limit fuel s) := by
  induction fuel generalizing s with
  | zero => exact SameButSequencer.refl s
  | succ fuel ih =>
    simp only [State.performUpTo]
    split
    · exact (performEntry_same s).trans (ih _)
    · exact SameButSequencer.refl s

/-- The frame of the sequencer: performing the entries that are due changes its own fields and the slices only. -/
theorem performDue_same (s : State) (limit : Nat) : SameButSequencer s (s.performDue limit) :=
  performUpTo_same limit 19 s

/-- Performing what is due is performing some number of entries, one after the other. -/
theorem performUpTo_iterate (limit : Nat) :
    ∀ (fuel : Nat) (s : State), ∃ m, State.performUpTo limit fuel s = Nat.iterate State.performEntry m s := by
  intro fuel
  induction fuel with
  | zero => exact fun s => ⟨0, rfl⟩
  | succ fuel ih =>
    intro s
    rw [State.performUpTo]
    split
    · obtain ⟨m, h⟩ := ih s.performEntry
      exact ⟨m + 1, h⟩
    · exact ⟨0, rfl⟩

/-- The fields the sequencer neither reads nor writes, replaced. -/
def State.withOthers (s : State) (busy : Bool) (t : Nat) (pat : Pattern) (done : Bool) (pre : Nat)
    (now : Nat) (resetAt : List Nat) (host : List HostMove) : State :=
  { s with busy := busy, t := t, pat := pat, done := done, pre := pre, now := now, resetAt := resetAt, host := host }

theorem nextUop_withOthers (s : State) (b t p d e n r h) : (s.withOthers b t p d e n r h).nextUop = s.nextUop := rfl

theorem due_withOthers (s : State) (l b t p d e n r h) : (s.withOthers b t p d e n r h).due l = s.due l := rfl

theorem performEntry_withOthers (s : State) (b t p d e n r h) :
    (s.withOthers b t p d e n r h).performEntry = s.performEntry.withOthers b t p d e n r h := by
  unfold State.performEntry
  rw [nextUop_withOthers]
  cases hu : s.nextUop with
  | none => rfl
  | some i =>
    rcases nextUop_kind hu with ⟨q, m, rfl⟩ | ⟨q, m, rfl⟩ | ⟨k, rfl⟩
    · cases q <;> rfl
    · cases q <;> rfl
    · rfl

/-- The sequencer does not read those fields: it does the same whatever they hold. -/
theorem performUpTo_withOthers (limit fuel : Nat) (s : State) (b t p d e n r h) :
    State.performUpTo limit fuel (s.withOthers b t p d e n r h)
      = (State.performUpTo limit fuel s).withOthers b t p d e n r h := by
  induction fuel generalizing s with
  | zero => rfl
  | succ fuel ih =>
    simp only [State.performUpTo, due_withOthers, performEntry_withOthers, ih]
    split <;> rfl

theorem performDue_withOthers (s : State) (limit : Nat) (b t p d e n r h) :
    (s.withOthers b t p d e n r h).performDue limit = (s.performDue limit).withOthers b t p d e n r h :=
  performUpTo_withOthers limit 19 s b t p d e n r h

theorem performUpTo_settled {s : State} {limit : Nat} (h : s.due limit = false) (fuel : Nat) :
    State.performUpTo limit fuel s = s := by
  cases fuel <;> simp [State.performUpTo, h]

/-- With fuel for the rest of the stream, nothing due is left. -/
theorem performUpTo_not_due (limit : Nat) : ∀ (fuel : Nat) (s : State), 19 ≤ s.upc.val + fuel →
    (State.performUpTo limit fuel s).due limit = false := by
  intro fuel
  induction fuel with
  | zero =>
    intro s h
    rw [State.performUpTo, Bool.eq_false_iff, ne_eq, due_iff]
    omega
  | succ fuel ih =>
    intro s h
    rw [State.performUpTo]
    split
    · rename_i hc
      have := performEntry_upc ((due_iff s limit).mp hc).1
      exact ih _ (by omega)
    · rename_i hc
      exact Bool.eq_false_iff.mpr hc

theorem performDue_not_due (s : State) (limit : Nat) : (s.performDue limit).due limit = false :=
  performUpTo_not_due limit 19 s (by omega)

theorem performDue_settled {s : State} {limit : Nat} (h : s.due limit = false) : s.performDue limit = s :=
  performUpTo_settled h 19

/-- Fuel beyond the rest of the stream makes no difference. -/
theorem performUpTo_fuel (l : Nat) : ∀ (f f' : Nat) (s : State), 19 ≤ s.upc.val + f → 19 ≤ s.upc.val + f' →
    State.performUpTo l f s = State.performUpTo l f' s := by
  intro f
  induction f with
  | zero =>
    intro f' s h _
    have : s.due l = false := by rw [Bool.eq_false_iff, ne_eq, due_iff]; omega
    rw [performUpTo_settled this, performUpTo_settled this]
  | succ f ih =>
    intro f' s h h'
    by_cases hd : s.due l = true
    · have hu := performEntry_upc ((due_iff s l).mp hd).1
      cases f' with
      | zero => have := ((due_iff s l).mp hd).1; omega
      | succ f' =>
        simp only [State.performUpTo, hd, if_true]
        exact ih f' _ (by omega) (by omega)
    · have hd := Bool.eq_false_iff.mpr hd
      rw [performUpTo_settled hd, performUpTo_settled hd]

theorem performUpTo_performUpTo {l1 l2 : Nat} (hl : l1 ≤ l2) (f3 : Nat) : ∀ (f1 f2 : Nat) (s : State),
    19 ≤ s.upc.val + f2 → 19 ≤ (State.performUpTo l1 f1 s).upc.val + f3 →
    State.performUpTo l2 f3 (State.performUpTo l1 f1 s) = State.performUpTo l2 f2 s := by
  intro f1
  induction f1 with
  | zero => intro f2 s h2 h3; exact performUpTo_fuel l2 f3 f2 s h3 h2
  | succ f1 ih =>
    intro f2 s h2 h3
    simp only [State.performUpTo] at h3 ⊢
    split
    · rename_i hc
      rw [if_pos hc] at h3
      obtain ⟨hlt, htau⟩ := (due_iff s l1).mp hc
      have hu := performEntry_upc hlt
      cases f2 with
      | zero => omega
      | succ f2 =>
        have hd : s.due l2 = true := (due_iff s l2).mpr ⟨hlt, by omega⟩
        simp only [State.performUpTo, hd, if_true]
        exact ih f2 _ (by omega) h3
    · rename_i hc
      rw [if_neg hc] at h3
      exact performUpTo_fuel l2 f3 f2 s h3 h2

/-- Performing up to one instant, then up to a later one, is performing up to the later one. -/
theorem performDue_performDue {l1 l2 : Nat} (hl : l1 ≤ l2) (s : State) :
    (s.performDue l1).performDue l2 = s.performDue l2 :=
  performUpTo_performUpTo hl 19 19 19 s (by omega) (by omega)

end Sys2Proof.Machine
end

