-- ==== Sys2Proof/Laws/Frame.lean ====
section
/-! SUPPORT. The frame: everything `startFrame` and `advance` can do, said once; and the sequencer's lines from the start
of a frame, as the frame stream's. -/

namespace Sys2Proof.Machine

/-- What starting a frame with events `evs` makes of `s`. -/
structure FrameStarted (s : State) (evs : Six ChannelEvent) (t : State) : Prop where
  surroundings : s.sameSurroundings t
  busy : t.busy = true
  tick : t.t = 0
  pat : t.pat = s.pat
  ev : t.ev = evs
  done : t.done = s.ending
  sigma : t.sigma = sortEvents s.cfg evs

theorem sameSurroundings_trans {a b c : State} (h : a.sameSurroundings b) (k : b.sameSurroundings c) :
    a.sameSurroundings c :=
  ⟨k.cfg.trans h.cfg, k.pre.trans h.pre, k.result.trans h.result, k.now.trans h.now, k.resetAt.trans h.resetAt,
    k.host.trans h.host, k.bench.trans h.bench⟩

/-- The frame just loaded, with the micro-operations of instant 0 performed. -/
theorem loadFrame_started (s : State) (ev : Six ChannelEvent) (d : Bool) :
    ∀ t, ((s.loadFrame ev).setDone d).performDue 0 = t →
      s.sameSurroundings t ∧ t.busy = true ∧ t.t = 0 ∧ t.pat = s.pat ∧ t.ev = ev ∧ t.done = d ∧
        t.sigma = sortEvents s.cfg ev := by
  intro t ht
  have h := performDue_same ((s.loadFrame ev).setDone d) 0
  rw [ht] at h
  refine ⟨⟨h.cfg, h.pre, h.result, h.now, h.resetAt, h.host, h.bench⟩, ?_, ?_, ?_, ?_, ?_, ?_⟩
  · simpa using h.busy
  · simpa using h.t
  · simpa using h.pat
  · simpa using h.ev
  · simpa using h.done
  · simpa using h.sigma

theorem finishStream_same (s : State) : SameButSequencer s s.finishStream := by
  unfold State.finishStream; exact performDue_same s s.cfg.periodUs

theorem startFrame_ending {s : State} (h : s.ending = true) (ev : Six ChannelEvent) :
    s.startFrame ev = ((s.finishStream.loadFrame ev).setDone true).performDue 0 := by
  unfold State.startFrame; simp only [h, if_true]

theorem startFrame_idle {s : State} (h : s.ending = false) (ev : Six ChannelEvent) :
    s.startFrame ev = ((s.loadFrame ev).setDone false).performDue 0 := by
  unfold State.startFrame; simp only [h, Bool.false_eq_true, if_false]

theorem startFrame_spec (s : State) (ev : Six ChannelEvent) : FrameStarted s ev (s.startFrame ev) := by
  cases h : s.ending with
  | true =>
    have hf := finishStream_same s
    obtain ⟨h1, h2, h3, h4, h5, h6, h7⟩ := loadFrame_started s.finishStream ev true _ (startFrame_ending h ev).symm
    exact ⟨sameSurroundings_trans ⟨hf.cfg, hf.pre, hf.result, hf.now, hf.resetAt, hf.host, hf.bench⟩ h1, h2, h3, h4.trans hf.pat, h5,
      h6.trans h.symm, by rw [h7, hf.cfg]⟩
  | false =>
    obtain ⟨h1, h2, h3, h4, h5, h6, h7⟩ := loadFrame_started s ev false _ (startFrame_idle h ev).symm
    exact ⟨h1, h2, h3, h4, h5, h6.trans h.symm, h7⟩

theorem advance_ending {s : State} (h : s.ending = true) :
    s.advance = { s.finishStream with busy := false, t := 0, done := true } := by
  unfold State.advance; rw [if_pos h]

theorem advance_running {s : State} (h : s.ending = false) (hb : s.busy = true) :
    s.advance = ({ s with t := s.nextTick, done := false } : State).performDue s.nextTick := by
  unfold State.advance; rw [if_neg (by simp [h]), if_pos hb]

theorem advance_idle {s : State} (hb : s.busy = false) : s.advance = s.setDone false := by
  unfold State.advance; rw [if_neg (by simp [State.ending, hb]), if_neg (by simp [hb])]

/-- What a boundary without a frame start makes of the fields other than the sequencer's and the lines. -/
structure Advanced (s t : State) : Prop where
  surroundings : s.sameSurroundings t
  busy : t.busy = (s.busy && !s.ending)
  tick : t.t = if s.ending then 0 else if s.busy then s.nextTick else s.t
  pat : t.pat = s.pat
  ev : t.ev = s.ev
  done : t.done = s.ending
  sigma : t.sigma = s.sigma

theorem advance_spec (s : State) : Advanced s s.advance := by
  cases h : s.ending with
  | true =>
    have hf := finishStream_same s
    rw [advance_ending h]
    generalize s.finishStream = f at hf
    exact ⟨⟨hf.cfg, hf.pre, hf.result, hf.now, hf.resetAt, hf.host, hf.bench⟩, by simp [h], by simp [h], hf.pat, hf.ev, h.symm,
      hf.sigma⟩
  | false =>
    cases hb : s.busy with
    | true =>
      have hf := performDue_same ({ s with t := s.nextTick, done := false } : State) s.nextTick
      rw [advance_running h hb]
      generalize State.performDue _ _ = f at hf
      exact ⟨⟨hf.cfg, hf.pre, hf.result, hf.now, hf.resetAt, hf.host, hf.bench⟩, by simpa [h, hb] using hf.busy,
        by simpa [h, hb] using hf.t, hf.pat, hf.ev, by simpa [h] using hf.done, hf.sigma⟩
    | false =>
      rw [advance_idle hb]
      exact ⟨⟨rfl, rfl, rfl, rfl, rfl, rfl, rfl⟩, by simp [hb], by simp [h, hb], rfl, rfl, h.symm, rfl⟩

/-! ## The architectural fields -/

@[simp] theorem block_busy (s : State) : s.block.busy = s.busy := rfl
@[simp] theorem block_t (s : State) : s.block.t = s.t := rfl
@[simp] theorem block_pat (s : State) : s.block.pat = s.pat := rfl
@[simp] theorem block_ev (s : State) : s.block.ev = s.ev := rfl
@[simp] theorem block_portA (s : State) : s.block.portA = s.portA := rfl
@[simp] theorem block_portB (s : State) : s.block.portB = s.portB := rfl
@[simp] theorem block_done (s : State) : s.block.done = s.done := rfl

/-! ## The sequencer and the frame stream -/

/-- The two slices of a state. -/
def State.ports (s : State) : Slice × Slice := (s.portA, s.portB)

/-- The next `n` micro-operations the sequencer emits. -/
def State.emits : Nat → State → List Instr
  | 0, _ => []
  | n + 1, s =>
    match s.nextUop with
    | none => []
    | some i => i :: State.emits n s.performEntry

theorem performEntry_tau {s : State} {i : Instr} (h : s.nextUop = some i) :
    s.performEntry.tau = s.tau + uopTicks i := by
  simp only [State.performEntry, h]
  rcases nextUop_kind h with ⟨p, m, rfl⟩ | ⟨p, m, rfl⟩ | ⟨n, rfl⟩ <;> simp [State.performUop, uopTicks]

theorem performEntry_ports {s : State} {i : Instr} (h : s.nextUop = some i) :
    s.performEntry.ports = uopOnPorts s.ports i := by
  simp only [State.performEntry, h]
  rcases nextUop_kind h with ⟨p, m, rfl⟩ | ⟨p, m, rfl⟩ | ⟨n, rfl⟩ <;> (try cases p) <;> rfl

/-- Instants never go back along a stream. -/
theorem withInstants_ge (is : List Instr) : ∀ tau, ∀ e ∈ withInstants tau is, tau ≤ e.1 := by
  induction is with
  | nil => simp [withInstants]
  | cons i is ih =>
    intro tau e he
    simp only [withInstants, List.mem_cons] at he
    rcases he with rfl | he
    · exact Nat.le_refl _
    · have := ih _ e he; omega

/-- Performing what is due changes the slices as R78 says: by every emitted micro-operation of instant at most the
limit, in order. -/
theorem performUpTo_ports (limit : Nat) : ∀ (fuel : Nat) (s : State), (State.performUpTo limit fuel s).ports
    = ((withInstants s.tau (s.emits fuel)).filter (fun e => decide (e.1 ≤ limit))).foldl
        (fun ports e => uopOnPorts ports e.2) s.ports := by
  intro fuel
  induction fuel with
  | zero => intro s; rfl
  | succ fuel ih =>
    intro s
    simp only [State.performUpTo, State.emits]
    cases hu : s.nextUop with
    | none => simp [State.due, hu, withInstants]
    | some i =>
      by_cases ht : s.tau ≤ limit
      · simp only [State.due, hu, Option.isSome_some, ht, decide_true, Bool.and_true, if_true, ih, withInstants,
          List.filter, List.foldl_cons, performEntry_tau hu, performEntry_ports hu]
      · have he : (withInstants s.tau (i :: State.emits fuel s.performEntry)).filter (fun e => decide (e.1 ≤ limit))
            = [] := by
          rw [List.filter_eq_nil_iff]
          intro e he
          have := withInstants_ge _ _ e he
          simp; omega
        simp [State.due, ht, he]

end Sys2Proof.Machine
end

