-- ==== Sys2Proof/Laws/PerInstr.lean ====
section
/-! SUPPORT. Facts about each instruction as syntax, one lemma per constructor. Family `TableRow`: the instruction's
encoded word lies in its own row of the opcode map, on its own channel (R54). -/

namespace Sys2Proof.Laws

/-- The row of R54 an instruction stands in: whether it is a host command, and the row's match and mask. -/
structure Row where
  host : Bool
  mtch : Nat
  mask : Nat
  deriving DecidableEq, Repr

/-- R54's row of each instruction. -/
def rowOf : Instr → Row
  | .renderFrame _ => ⟨true, 0x1000, 0xF000⟩
  | .pset _ _ => ⟨false, 0x10000000, 0xFEFFFFF8⟩
  | .pclr _ _ => ⟨false, 0x20000000, 0xFEFFFFF8⟩
  | .pread _ _ => ⟨false, 0x30000000, 0xFEFFFFF8⟩
  | .wait _ => ⟨false, 0x40000000, 0xFFFF0000⟩

/-- A word lies in a row: its channel, and `(word & mask) = match`. -/
def inRow (r : Row) : BusWord → Prop
  | .cmd w => r.host = true ∧ w &&& BitVec.ofNat 16 r.mask = BitVec.ofNat 16 r.mtch
  | .uop u => r.host = false ∧ u &&& BitVec.ofNat 32 r.mask = BitVec.ofNat 32 r.mtch

/-- The encoded word of an instruction lies in its row. -/
def TableRow.Statement (i : Instr) : Prop := inRow (rowOf i) (encode i)

theorem TableRow.renderFrame (pat : Pattern) : TableRow.Statement (.renderFrame pat) := by
  refine ⟨rfl, ?_⟩
  revert pat; decide

theorem TableRow.pset (p : Port) (m : Slice) : TableRow.Statement (.pset p m) := by
  refine ⟨rfl, ?_⟩
  cases p <;> revert m <;> decide

theorem TableRow.pclr (p : Port) (m : Slice) : TableRow.Statement (.pclr p m) := by
  refine ⟨rfl, ?_⟩
  cases p <;> revert m <;> decide

theorem TableRow.pread (p : Port) (m : Slice) : TableRow.Statement (.pread p m) := by
  refine ⟨rfl, ?_⟩
  cases p <;> revert m <;> decide

theorem TableRow.wait (n : Nat) : TableRow.Statement (.wait n) := by
  refine ⟨rfl, ?_⟩
  show (0x4#4 ++ 0#12 ++ BitVec.ofNat 16 n : BitVec 32) &&& 0xFFFF0000#32 = 0x40000000#32
  apply BitVec.eq_of_getLsbD_eq
  intro i hi
  rw [BitVec.getLsbD_and, BitVec.getLsbD_append]
  interval_cases i <;> simp

end Sys2Proof.Laws
end

