-- ==== Sys2Proof/Laws/Sort.lean ====
section
/-! SUPPORT. The sort of the slots: what insertion sort gives for any order that is total and transitive. -/

namespace Sys2Proof.Machine

theorem insertSlot_perm (before : Fin 6 → Fin 6 → Bool) (k : Fin 6) (xs : List (Fin 6)) :
    (insertSlot before k xs).Perm (k :: xs) := by
  induction xs with
  | nil => exact List.Perm.refl _
  | cons x xs ih =>
    simp only [insertSlot]
    split
    · exact List.Perm.refl _
    · exact (ih.cons x).trans (List.Perm.swap k x xs)

theorem sortSlots_perm (before : Fin 6 → Fin 6 → Bool) (xs : List (Fin 6)) : (sortSlots before xs).Perm xs := by
  induction xs with
  | nil => exact List.Perm.refl _
  | cons x xs ih => exact (insertSlot_perm before x _).trans (ih.cons x)

theorem insertSlot_pairwise {before : Fin 6 → Fin 6 → Bool} (total : ∀ a b, before a b = true ∨ before b a = true)
    (trans : ∀ a b c, before a b = true → before b c = true → before a c = true) (k : Fin 6) {xs : List (Fin 6)}
    (h : xs.Pairwise (fun a b => before a b = true)) :
    (insertSlot before k xs).Pairwise (fun a b => before a b = true) := by
  induction xs with
  | nil => simp [insertSlot]
  | cons x xs ih =>
    obtain ⟨hx, hxs⟩ := List.pairwise_cons.mp h
    simp only [insertSlot]
    split
    · rename_i hk
      refine List.pairwise_cons.mpr ⟨fun b hb => ?_, h⟩
      rcases List.mem_cons.mp hb with rfl | hb
      · exact hk
      · exact trans k x b hk (hx b hb)
    · rename_i hk
      refine List.pairwise_cons.mpr ⟨fun b hb => ?_, ih hxs⟩
      rcases List.mem_cons.mp ((insertSlot_perm before k xs).mem_iff.mp hb) with rfl | hb
      · exact (total x b).resolve_right hk
      · exact hx b hb

theorem sortSlots_pairwise {before : Fin 6 → Fin 6 → Bool} (total : ∀ a b, before a b = true ∨ before b a = true)
    (trans : ∀ a b c, before a b = true → before b c = true → before a c = true) (xs : List (Fin 6)) :
    (sortSlots before xs).Pairwise (fun a b => before a b = true) := by
  induction xs with
  | nil => exact List.Pairwise.nil
  | cons x xs ih => exact insertSlot_pairwise total trans x ih

/-- The order of R75, spelled out. -/
theorem firesBefore_iff (c : Config) (ev : Six ChannelEvent) (a b : Fin 6) :
    firesBefore c ev a b = true ↔
      (ev.get a).dur < (ev.get b).dur ∨ (ev.get a).dur = (ev.get b).dur ∧
        (c.tieRank.get a < c.tieRank.get b ∨ c.tieRank.get a = c.tieRank.get b ∧ a.val ≤ b.val) := by
  simp [firesBefore]

theorem firesBefore_total (c : Config) (ev : Six ChannelEvent) (a b : Fin 6) :
    firesBefore c ev a b = true ∨ firesBefore c ev b a = true := by
  simp only [firesBefore_iff]; omega

theorem firesBefore_trans (c : Config) (ev : Six ChannelEvent) (a b d : Fin 6)
    (h1 : firesBefore c ev a b = true) (h2 : firesBefore c ev b d = true) : firesBefore c ev a d = true := by
  simp only [firesBefore_iff] at *; omega

/-- A row made of a list of six things lists them. -/
theorem Six_toList_ofList {α : Type} (d : Six α) {xs : List α} (h : xs.length = 6) : (Six.ofList d xs).toList = xs := by
  match xs, h with
  | [_, _, _, _, _, _], _ => rfl

end Sys2Proof.Machine
end

