-- ==== Sys2Proof/Laws/Step.lean ====
section
/-! SUPPORT. What a step can do, said once: a refusal, a test bench's micro-operation, or a tick boundary with one of
five outcomes. -/

namespace Sys2Proof.Machine

theorem execRenderFrame_ready {s : State} (h : s.ready = true) (pat : Pattern) :
    execRenderFrame pat s
      = .next (({ s with pat := pat } : State).startFrame (clampEvents s.cfg (expand s.cfg pat))) := by
  unfold execRenderFrame; rw [if_pos h]

theorem execRenderFrame_held {s : State} (h : s.ready = false) (pat : Pattern) :
    execRenderFrame pat s = .next s.advance := by
  unfold execRenderFrame; rw [if_neg (by simp [h])]

/-- The only instruction a host command word can be is RENDER_FRAME (R54). -/
theorem decode_cmd_ok {w : CmdWord} {i : Instr} (h : decode (.cmd w) = .ok i) :
    w &&& 0xF000#16 = 0x1000#16 ∧ i = .renderFrame (patternField w) := by
  simp only [decode, decodeCmd] at h
  split at h
  · exact ⟨‹_›, (Except.ok.inj h).symm⟩
  · cases h

/-- A word that is not RENDER_FRAME is a reserved command (R55). -/
theorem decode_cmd_error {w : CmdWord} (h : w &&& 0xF000#16 ≠ 0x1000#16) :
    decode (.cmd w) = .error (.reservedCommand w) := by
  simp only [decode, decodeCmd, if_neg h]

theorem decode_cmd_render {w : CmdWord} (h : w &&& 0xF000#16 = 0x1000#16) :
    decode (.cmd w) = .ok (.renderFrame (patternField w)) := by
  simp only [decode, decodeCmd, if_pos h]

/-- The block in service is on no test bench (R43). -/
theorem onBench_inService {s : State} (h : s.bench = none) : s.onBench = false := by
  simp [State.onBench, h]

/-- A frame in progress is on no test bench (R43). -/
theorem onBench_busy {s : State} (h : s.busy = true) : s.onBench = false := by
  simp [State.onBench, h]

theorem step_refused {s : State} (h : configValid s.cfg = false) : step s = .refused .invalidConfiguration := by
  unfold step; rw [if_neg (by simp [h])]

/-- On a test bench a step is the bench's (R94). -/
theorem step_bench {s : State} (hv : configValid s.cfg = true) (hb : s.onBench = true) : step s = s.benchStep := by
  unfold step State.stepValid; rw [if_pos hv, if_pos hb]

theorem benchStep_word {s : State} {u : UopWord} {rest : List UopWord} (h : s.bench = some (u :: rest)) :
    s.benchStep = runMicroOp u { s with bench := some rest } := by
  unfold State.benchStep; rw [h]

theorem step_boundary {s : State} (hv : configValid s.cfg = true) (hb : s.onBench = false) :
    step s = react s.rst s.offer s.nextInterval := by
  unfold step State.stepValid; rw [if_pos hv, if_neg (by simp [hb])]; rfl

/-- What a tick boundary can do. -/
inductive BoundaryCase (s : State) : State → Prop where
  /-- Reset is sampled (R115). -/
  | reset (h : s.rst = true) : BoundaryCase s s.nextInterval.takeReset
  /-- A RENDER_FRAME is accepted (R72). -/
  | accepted (w : CmdWord) (h : s.rst = false) (ho : s.offer = .word w) (hw : w &&& 0xF000#16 = 0x1000#16)
      (hr : s.ready = true) :
      BoundaryCase s (({ s.nextInterval with pat := patternField w } : State).startFrame
        (clampEvents s.cfg (expand s.cfg (patternField w))))
  /-- The harness's events are accepted (R74). -/
  | harness (evs : Six RawEvent) (h : s.rst = false) (ho : s.offer = .events evs) (hr : s.ready = true) :
      BoundaryCase s (s.nextInterval.startFrame (clampEvents s.cfg evs))
  /-- No frame starts: nothing is offered, or a reserved command, or the block is not ready (R87). -/
  | advanced (h : s.rst = false)
      (hn : s.ready = false ∨ s.offer = .nothing ∨ ∃ w, s.offer = .word w ∧ w &&& 0xF000#16 ≠ 0x1000#16) :
      BoundaryCase s s.nextInterval.advance

/-- Every tick boundary gives a next state, by one of these cases. -/
theorem boundary_cases (s : State) : ∃ t, react s.rst s.offer s.nextInterval = .next t ∧ BoundaryCase s t := by
  cases hrst : s.rst with
  | true => exact ⟨_, rfl, .reset hrst⟩
  | false =>
    simp only [react, Bool.false_eq_true, if_false]
    cases ho : s.offer with
    | nothing => exact ⟨_, rfl, .advanced hrst (.inr (.inl ho))⟩
    | word w =>
      by_cases hw : w &&& 0xF000#16 = 0x1000#16
      · simp only [offerWord, decode_cmd_render hw, exec]
        cases hr : s.ready with
        | true => exact ⟨_, execRenderFrame_ready (s := s.nextInterval) hr _, .accepted w hrst ho hw hr⟩
        | false => exact ⟨_, execRenderFrame_held (s := s.nextInterval) hr _, .advanced hrst (.inl hr)⟩
      · simp only [offerWord, decode_cmd_error hw]
        exact ⟨_, rfl, .advanced hrst (.inr (.inr ⟨w, ho, hw⟩))⟩
    | events evs =>
      cases hr : s.ready with
      | true =>
        refine ⟨_, rfl, ?_⟩
        have : offerEvents evs s.nextInterval = s.nextInterval.startFrame (clampEvents s.cfg evs) := by
          unfold offerEvents; exact if_pos hr
        rw [this]
        exact .harness evs hrst ho hr
      | false =>
        refine ⟨_, rfl, ?_⟩
        have : offerEvents evs s.nextInterval = s.nextInterval.advance := by
          unfold offerEvents; exact if_neg (by rw [show s.nextInterval.ready = false from hr]; simp)
        rw [this]
        exact .advanced hrst (.inl hr)

/-- A step of a valid machine that is on no test bench is a boundary, and always goes on. -/
theorem step_boundary_cases {s : State} (hv : configValid s.cfg = true) (hb : s.onBench = false) :
    ∃ t, step s = .next t ∧ BoundaryCase s t := by
  rw [step_boundary hv hb]
  exact boundary_cases s

end Sys2Proof.Machine
end

