-- ==== Sys2Proof/Tests/Slice0.lean ====
section
/-! SUPPORT. Tests. Expected values are the spec's own: the vectors of 95_test_vectors.md and the worked words of R62,
named beside each test. And for every statement with hypotheses, a witness that meets them. -/

namespace Sys2Proof.Tests

open Sys2Proof.Machine

/-- The state a step or an instruction leaves, for tests. -/
def after (o : Host.Outcome State Fault Refusal) : State :=
  match o with
  | .next s => s
  | .fault _ => State.reset
  | .refused _ => State.reset

/-- A block with the given lines, for a test bench (R94). -/
def lines (a b : Slice) : State := { State.reset with portA := a, portB := b }

/-- The first interval of a frame of `pat` from reset, with the given moves pending. -/
def frameOf (pat : Pattern) (host : List HostMove) : State :=
  after (exec (.renderFrame pat) { State.reset with host := host })

/-- Interval τ of a frame of `pat`. -/
def frameAt (pat : Pattern) (tau : Nat) (host : List HostMove) : State :=
  ({ frameOf pat host with t := tau } : State).performDue tau

/-- The reset state with a host that offers one word from I_0 on. -/
def offering (w : CmdWord) : State := { State.reset with host := [⟨0, .offer w⟩] }

/-! ## Well-formedness: an ill-formed term for each check (R8, R59) -/

theorem test_illformed_render : AsmLine.wellFormed (.render 64) = false := by decide
theorem test_illformed_pset : AsmLine.wellFormed (.pset .A 8) = false := by decide
theorem test_illformed_pclr : AsmLine.wellFormed (.pclr .B 8) = false := by decide
theorem test_illformed_pread : AsmLine.wellFormed (.pread .A 9) = false := by decide
theorem test_illformed_wait : AsmLine.wellFormed (.wait 65536) = false := by decide
theorem test_illformed_wait_instr : Instr.wellFormed (.wait 65536) = false := by decide
theorem test_illformed_not_assembled : AsmLine.assemble (.render 64) = none := by decide

theorem test_config_reference : configValid Config.reference = true := by decide
theorem test_config_max_above_period : configValid { Config.reference with servoMaxUs := 20001 } = false := by decide
theorem test_config_period_too_long : configValid { Config.reference with periodUs := 65536 } = false := by decide
/-- The same period in wider registers meets R8. -/
theorem test_config_wide : configValid { Config.reference with periodUs := 70000, tW := 17, durW := 17 } = true := by decide
theorem test_wide_padding : (frameStream { Config.reference with periodUs := 70000, tW := 17, durW := 17 }
    (clampEvents { Config.reference with periodUs := 70000, tW := 17, durW := 17 } (expand Config.reference 0#6))).getLast?
    = some (.wait 69400) := by decide
theorem test_config_period_zero :
    configValid { Config.reference with servoMinUs := 0, servoMaxUs := 0, periodUs := 0 } = false := by decide
theorem test_config_min_above_max : configValid { Config.reference with servoMinUs := 2401 } = false := by decide
theorem test_config_angle_max_zero :
    configValid { Config.reference with angleMax := 0, angleOn := 0 } = false := by decide
theorem test_config_angle_on : configValid { Config.reference with angleOn := 181 } = false := by decide
theorem test_config_angle_off : configValid { Config.reference with angleOff := 181 } = false := by decide
theorem test_config_width_of_t : configValid { Config.reference with tW := 14 } = false := by decide
theorem test_config_width_of_dur : configValid { Config.reference with durW := 14 } = false := by decide
theorem test_config_wiring :
    configValid { Config.reference with wiring := { Config.referenceWiring with k1 := ⟨.B, 0⟩ } } = false := by decide

/-! ## Decoding, words written out from R50 to R52 (R62, 95 L2-E) -/

theorem test_decode_render : decode (.cmd 0b0001000000110101#16) = .ok (.renderFrame 0x35#6) := by decide
theorem test_decode_render_ignores_rsv : decode (.cmd 0x1FC1#16) = .ok (.renderFrame 0b000001#6) := by decide
theorem test_decode_reserved_command : decode (.cmd 0xF03F#16) = .error (.reservedCommand 0xF03F#16) := by decide
theorem test_decode_pset : decode (.uop 0b00010001000000000000000000000100#32) = .ok (.pset .B 0b100#3) := by decide
theorem test_decode_pclr : decode (.uop 0b00100001000000000000000000000010#32) = .ok (.pclr .B 0b010#3) := by decide
theorem test_decode_pread : decode (.uop 0b00110000000000000000000000000111#32) = .ok (.pread .A 0b111#3) := by decide
theorem test_decode_wait : decode (.uop 0b01000000000000000000001001011000#32) = .ok (.wait 600) := by decide
theorem test_decode_wait_longest : decode (.uop 0x4000FFFF#32) = .ok (.wait 65535) := by decide
theorem test_decode_pset_bit3 : decode (.uop 0x10000008#32) = .error (.reservedMicroOp 0x10000008#32) := by decide
theorem test_decode_wait_bit16 : decode (.uop 0x40010000#32) = .error (.reservedMicroOp 0x40010000#32) := by decide
theorem test_decode_op_zero : decode (.uop 0x00000000#32) = .error (.reservedMicroOp 0x00000000#32) := by decide
theorem test_encode_wait : encode (.wait 18500) = .uop 0x40004844#32 := by decide
theorem test_table_word_render : decodeTableWord 16 0x1000 = some (.renderFrame 0#6) := by decide
theorem test_table_word_pclr : decodeTableWord 32 0x21000002 = some (.pclr .B 0b010#3) := by decide

/-! ## Assembler and host programs (R59 to R61, L1-5) -/

theorem test_braille_z : AsmLine.assemble (.braille 'z') = some (.cmd 0x1035#16) := by decide
theorem test_braille_upper_a : AsmLine.assemble (.braille 'A') = some (.cmd 0x1001#16) := by decide
theorem test_braille_digit : AsmLine.assemble (.braille '1') = some (.cmd 0x1000#16) := by decide
theorem test_program_order :
    State.withProgram State.reset [.reset 5, .raw 3 0x1000#16] = none := by decide
theorem test_program_no_micro_op : State.withProgram State.reset [.command 0 .nop] = none := by decide
theorem test_program_p2 : (State.withProgram State.reset [.command 0 (.braille 'z'), .command 1 (.braille 'a')]).map
    (fun s => s.host) = some [⟨0, .offer 0x1035#16⟩, ⟨1, .offer 0x1001#16⟩] := by decide

/-! ## The pulse-timing engine (L2-C, L2-M) -/

theorem test_pulse_negative : pulseUs Config.reference (-5) = 600 := by decide
theorem test_pulse_89 : pulseUs Config.reference 89 = 1490 := by decide
theorem test_pulse_above : pulseUs Config.reference 200 = 2400 := by decide
/-- L2-C3, a span 180 does not divide. -/
theorem test_pulse_floor :
    pulseUs { Config.reference with servoMinUs := 500, servoMaxUs := 2500 } 89 = 1488 := by decide
theorem test_expand_20 : (expand Config.reference 0x20#6).get 5 = ⟨.A, 0b100#3, 1500⟩ := by decide
theorem test_expand_01 : (expand Config.reference 0x01#6).get 0 = ⟨.B, 0b001#3, 1500⟩ := by decide

/-! ## The micro-operations (L2-U) -/

theorem test_pset : (after (exec (.pset .B 0b001#3) (lines 0b000#3 0b010#3))).portB = 0b011#3 := by decide
theorem test_pset_other : (after (exec (.pset .B 0b101#3) (lines 0b010#3 0b010#3))).portA = 0b010#3 := by decide
theorem test_pclr : (after (exec (.pclr .A 0b010#3) (lines 0b111#3 0b111#3))).portA = 0b101#3 := by decide
theorem test_pclr_other : (after (exec (.pclr .A 0b010#3) (lines 0b111#3 0b111#3))).portB = 0b111#3 := by decide
theorem test_pread : (after (exec (.pread .A 0b111#3) (lines 0b101#3 0b011#3))).result = 0b101#3 := by decide
theorem test_pread_masked : (after (exec (.pread .B 0b100#3) (lines 0b101#3 0b011#3))).result = 0b000#3 := by decide
theorem test_wait : (after (exec (.wait 900) { State.reset with tau := 600 })).tau = 1500 := by decide
theorem test_wait_zero : exec (.wait 0) (lines 0b101#3 0b011#3) = .next (lines 0b101#3 0b011#3) := rfl

/-! ## The frame stream (L2-F) -/

theorem test_sigma_z :
    (sortEvents Config.reference (clampEvents Config.reference (expand Config.reference 0x35#6))).toList
      = [1, 3, 0, 2, 4, 5] := by decide

/-- The events of L2-F5. -/
def harnessEvents : Six RawEvent :=
  ⟨⟨.A, 0b001#3, 5⟩, ⟨.A, 0b001#3, 3⟩, ⟨.B, 0b000#3, 0⟩, ⟨.B, 0b111#3, 25000⟩, ⟨.A, 0b110#3, 20000⟩,
    ⟨.B, 0b010#3, 19999⟩⟩

theorem test_stream_f5_falls : (frameStream Config.reference (clampEvents Config.reference harnessEvents)).drop 6
    = [.wait 0, .pclr .B 0b000#3, .wait 3, .pclr .A 0b001#3, .wait 2, .pclr .A 0b001#3, .wait 19994,
       .pclr .B 0b010#3, .wait 1, .pclr .B 0b111#3, .wait 0, .pclr .A 0b110#3, .wait 0] := by decide

theorem test_closed_form_f5 : closedForm (clampEvents Config.reference harnessEvents) .A 3 = 0b110#3 ∧
    closedForm (clampEvents Config.reference harnessEvents) .B 19999 = 0b101#3 := by decide

/-! ## RENDER_FRAME and the boundary (L2-T, L2-H, L2-R, P1) -/

theorem test_render_rises : (frameOf 0x00#6 []).portA = 0b111#3 ∧ (frameOf 0x00#6 []).portB = 0b111#3 := by decide
theorem test_lines_01_at_600 : (frameAt 0x01#6 600 []).portA = 0b000#3 ∧ (frameAt 0x01#6 600 []).portB = 0b001#3 := by
  decide
theorem test_lines_35_at_1499 : (frameAt 0x35#6 1499 []).portA = 0b110#3 ∧
    (frameAt 0x35#6 1499 []).portB = 0b101#3 := by decide
theorem test_lines_35_at_1500 : (frameAt 0x35#6 1500 []).portA = 0b000#3 := by decide

theorem test_idle_accepts : (after (step (offering 0x1FC1#16))).pat = 0x01#6 ∧
    (after (step (offering 0x1FC1#16))).busy = true := by decide
theorem test_idle_reserved : (after (step (offering 0x2005#16))).busy = false ∧
    (after (step (offering 0x2005#16))).host = [] := by decide
theorem test_mid_frame_holds : (after (step (frameAt 0x01#6 19998 [⟨0, .offer 0x1035#16⟩]))).t = 19999 ∧
    (after (step (frameAt 0x01#6 19998 [⟨0, .offer 0x1035#16⟩]))).host = [⟨0, .offer 0x1035#16⟩] := by decide
theorem test_back_to_back : (after (step (frameAt 0x01#6 19999 [⟨0, .offer 0x1035#16⟩]))).pat = 0x35#6 ∧
    (after (step (frameAt 0x01#6 19999 [⟨0, .offer 0x1035#16⟩]))).done = true ∧
    (after (step (frameAt 0x01#6 19999 [⟨0, .offer 0x1035#16⟩]))).t = 0 := by decide
theorem test_frame_end : (after (step (frameAt 0x01#6 19999 []))).busy = false ∧
    (after (step (frameAt 0x01#6 19999 []))).done = true := by decide
/-- A frame of a block with 17-bit registers (R7, R8, R87). -/
def wideFrameAt (tau : Nat) : State :=
  ({ after (exec (.renderFrame 0x01#6)
      { State.reset with cfg := { Config.reference with periodUs := 70000, tW := 17, durW := 17 } })
    with t := tau } : State).performDue tau
theorem test_wide_tick : (after (step (wideFrameAt 65535))).t = 65536 := by decide
theorem test_wide_frame_end : (after (step (wideFrameAt 69999))).done = true ∧
    (after (step (wideFrameAt 69999))).portB = 0b000#3 := by decide
theorem test_reset_mid_frame :
    (after (step { frameAt 0x3F#6 999 [] with resetAt := [0] })).portA = 0b000#3 ∧
    (after (step { frameAt 0x3F#6 999 [] with resetAt := [0] })).done = false := by decide
theorem test_reset_beats_command : (after (step { offering 0x1001#16 with resetAt := [0] })).busy = false ∧
    (after (step { offering 0x1001#16 with resetAt := [0] })).host = [⟨0, .offer 0x1001#16⟩] := by decide
theorem test_reset_beats_frame_end :
    (after (step { frameAt 0x01#6 19999 [] with resetAt := [0] })).done = false := by decide
theorem test_cmd_ready_last_interval : (frameAt 0x01#6 19999 []).cmdReady = true ∧
    (frameAt 0x01#6 19998 []).cmdReady = false := by decide
theorem test_harness_starts : (after (step { State.reset with host := [⟨0, .harness harnessEvents⟩] })).portB
    = 0b111#3 := by decide
/-- A word a test bench has still to run waits while a frame is in progress: no other writer (R43). -/
theorem test_bench_waits_for_the_frame :
    (after (step { frameAt 0x01#6 599 [] with bench := some [0x11000006#32] })).portB = 0b001#3 := by decide
theorem test_withdrawn_offer :
    (after (step (frameAt 0x01#6 5 [⟨0, .offerUntil 0 0x1001#16⟩]))).host = [⟨0, .pause⟩] := by decide

/-! ## The first instruction after reset -/

theorem test_first_render :
    step (State.reset.withFetchWord 16 0x1035) = exec (.renderFrame 0x35#6) State.reset.nextInterval := rfl
theorem test_first_pset : step (State.reset.withFetchWord 32 0x11000004) = 
    exec (.pset .B 0b100#3) { State.reset with bench := some [] } := rfl
theorem test_reserved_bench :
    step (State.reset.withFetchWord 32 0x10000008) = .refused (.reservedMicroOp 0x10000008#32) := rfl

end Sys2Proof.Tests
end

