-- ==== Sys2Proof/Tests/Witnesses.lean ====
section
/-! SUPPORT. Witnesses: for every statement of Certificates/Slice0/Obligations.lean that has hypotheses, a concrete
state and operands that meet all of them together, and for a statement of several clauses one for each. -/

namespace Sys2Proof.Tests

open Sys2Proof.Machine

/-! ## Words and configurations -/

theorem witness_DecodeOfEncodeIsIdentity : Instr.wellFormed (.wait 65535) = true := by decide

theorem witness_MicroOpWordIsItsEncoding : decode (.uop 0x4000FFFF#32) = .ok (.wait 0xFFFF) := by decide

theorem witness_PsetSetsTheMaskedBits : 0x11000007#32 &&& 0xFEFFFFF8#32 = 0x10000000#32 := by decide
theorem witness_PclrClearsTheMaskedBits : 0x21000007#32 &&& 0xFEFFFFF8#32 = 0x20000000#32 := by decide
theorem witness_PreadReturnsTheMaskedBits : 0x31000000#32 &&& 0xFEFFFFF8#32 = 0x30000000#32 := by decide
theorem witness_WaitAdvancesTau : 0x4000FFFF#32 &&& 0xFFFF0000#32 = 0x40000000#32 := by decide

/-- The configuration of PulseIsMonotonicAndBounded, ExpandCoversTheSixLines, ClampedDurationsAreExact,
WaitOperandsSumToThePeriod and PaddingIsWhatTheLongestPulseLeaves, at the longest period
R8 allows at the default widths. -/
theorem witness_valid_longest_period : configValid { Config.reference with periodUs := 65535 } = true := by decide

/-- In registers of 17 bits, longer still. -/
theorem witness_valid_wide :
    configValid { Config.reference with periodUs := 131071, tW := 17, durW := 17 } = true := by decide

/-- And at the shortest. -/
theorem witness_valid_shortest_period :
    configValid { Config.reference with servoMinUs := 0, servoMaxUs := 1, periodUs := 1 } = true := by decide

/-- A pulse that could outlast the period, R102's own instance. -/
theorem witness_InvalidConfigurationIsRefused :
    ¬ ConstraintsHold { Config.reference with servoMaxUs := 20001 } := by
  rintro ⟨⟨-, -, h⟩, -⟩
  exact absurd h (by decide)

/-- A period that needs registers wider than 16 bits. -/
theorem witness_ValidConfigurationBuilds_first :
    ConstraintsHold { Config.reference with periodUs := 70000, tW := 17, durW := 17 } := by
  refine ⟨by decide, by decide, by decide, by decide, by decide, fun l => ?_⟩
  obtain ⟨p, b⟩ := l
  cases p <;> revert b <;> decide

theorem witness_ValidConfigurationBuilds_second :
    build { Config.reference with servoMaxUs := 20001 } = .error .invalidConfiguration := by rfl

/-! ## The frame stream -/

theorem witness_SigmaIsTheSortingPermutation : Config.reference.tieRank = ⟨0, 1, 2, 3, 4, 5⟩ ∧
    ([2, 1, 0, 5, 3, 4] : List (Fin 6)) = (sortEvents Config.reference
      (clampEvents Config.reference harnessEvents)).toList := by decide

/-- An order that breaks the ties of L2-F3 another way (95 L2-T). -/
theorem witness_MicroOpsGiveTheClosedForm : ([3, 1, 5, 4, 2, 0] : List (Fin 6)).Perm channels ∧
    ([3, 1, 5, 4, 2, 0] : List (Fin 6)).Pairwise (fun a b =>
      ((clampEvents Config.reference (expand Config.reference 0x35#6)).get a).dur
        ≤ ((clampEvents Config.reference (expand Config.reference 0x35#6)).get b).dur) := by decide

theorem witness_SequencerEmitsTheFrameStream :
    (frameOf 0x35#6 []).atFrameStart.upc = 0 ∧ (frameOf 0x35#6 []).atFrameStart.elapsed = 0 ∧
    (frameOf 0x35#6 []).atFrameStart.sigma
      = sortEvents (frameOf 0x35#6 []).atFrameStart.cfg (frameOf 0x35#6 []).atFrameStart.ev := by decide

/-- A rise, a WAIT, a fall and the padding (SequencerPerformsByExec; ReservedMicroOpsAreRefused, third clause). -/
theorem witness_SequencerPerformsByExec :
    (frameOf 0x01#6 []).atFrameStart.nextUop = some (.pset .B 0b001#3) ∧
    ({ frameOf 0x01#6 [] with upc := 6 } : State).nextUop = some (.wait 600) ∧
    (frameOf 0x01#6 []).nextUop = some (.pclr .B 0b010#3) ∧
    ({ frameOf 0x01#6 [] with upc := 18 } : State).nextUop = some (.wait 20000) := by decide

theorem witness_EdgesFallAtTheirDurations :
    (0, Instr.pset .A 0b001#3) ∈ withInstants 0 (frameStream Config.reference
      (clampEvents Config.reference harnessEvents)) ∧
    (20000, Instr.pclr .A 0b110#3) ∈ withInstants 0 (frameStream Config.reference
      (clampEvents Config.reference harnessEvents)) := by decide

/-! ## The invariants -/

/-- An idle block with the reset values and any host meets the invariant. -/
theorem inv_reset_with (host : List HostMove) :
    ({ State.reset with host := host } : State).Inv where
  valid := test_config_reference
  inService := rfl
  idle_t := fun _ => rfl
  idle_lines := fun _ => ⟨rfl, rfl⟩
  frame_t := fun hb => Bool.noConfusion (show false = true from hb)
  frame_durs := fun hb => Bool.noConfusion (show false = true from hb)
  frame_sigma := fun hb => Bool.noConfusion (show false = true from hb)
  frame_stream := fun hb => Bool.noConfusion (show false = true from hb)

/-- The last interval of a frame of z, with the next letter offered (95 P2). -/
theorem witness_Inv_last_interval : (frameAt 0x35#6 19999 [⟨0, .offer 0x1001#16⟩]).Inv := by
  constructor <;> decide

/-- The first interval of a frame. -/
theorem witness_Inv_first_interval : (frameOf 0x35#6 [⟨0, .offer 0x1001#16⟩]).Inv := by
  constructor <;> decide

theorem witness_PatternInv : (frameAt 0x35#6 19999 [⟨0, .offer 0x1001#16⟩]).PatternInv ∧
    (frameAt 0x35#6 19999 [⟨0, .offer 0x1001#16⟩]).busy = true := by
  constructor
  · constructor <;> decide
  · decide

theorem witness_StepKeepsTheInvariant : (frameAt 0x35#6 19999 [⟨0, .offer 0x1001#16⟩]).Inv ∧
    ∃ t, step (frameAt 0x35#6 19999 [⟨0, .offer 0x1001#16⟩]) = .next t :=
  ⟨witness_Inv_last_interval, _, (step_boundary_cases witness_Inv_last_interval.valid
    (onBench_inService witness_Inv_last_interval.inService)).choose_spec.1⟩

theorem witness_LinesFollowTheDurations : State.reset.Inv ∧ State.reset.PatternInv ∧ State.reset.busy = false ∧
    (frameOf 0x35#6 [⟨0, .offer 0x1001#16⟩]).busy = true ∧
    (frameOf 0x35#6 [⟨0, .offer 0x1001#16⟩]).PatternInv := by
  refine ⟨inv_reset_with [], ⟨rfl, fun h => by cases h⟩, rfl, by decide, ?_⟩
  constructor <;> decide

/-- The longest period that 17 bits hold, and a frame in progress. -/
theorem witness_RegistersHoldWhatIsWritten :
    configValid { Config.reference with periodUs := 131071, tW := 17, durW := 17 } = true ∧
    131071 ≤ ({ Config.reference with periodUs := 131071, tW := 17, durW := 17 } : Config).periodUs ∧
    (frameAt 0x35#6 19999 [⟨0, .offer 0x1001#16⟩]).Inv ∧
    (frameAt 0x35#6 19999 [⟨0, .offer 0x1001#16⟩]).busy = true :=
  ⟨witness_valid_wide, by decide, witness_Inv_last_interval, witness_PatternInv.2⟩

theorem witness_ResetMeetsTheInvariant : build Config.reference = .ok State.reset := rfl

/-! ## RENDER_FRAME -/

theorem witness_RenderFrameStartsAFrame : State.reset.ready = true ∧
    (frameAt 0x35#6 19999 [⟨0, .offer 0x1001#16⟩]).ready = true := by decide

theorem witness_RenderFrameRaisesAllLines : State.reset.Inv ∧ State.reset.ready = true ∧
    1 ≤ State.reset.cfg.servoMinUs := ⟨inv_reset_with [], rfl, by decide⟩

theorem witness_RenderFrameWaitsWhileNotReady : (frameAt 0x35#6 19998 []).ready = false := by decide

/-! ## The step -/

theorem witness_StepRunsTheOfferedCommand : configValid (offering 0x1FC1#16).cfg = true ∧
    (offering 0x1FC1#16).onBench = false ∧
    (offering 0x1FC1#16).rst = false ∧ (offering 0x1FC1#16).offer = .word 0x1FC1#16 ∧
    decode (.cmd 0x1FC1#16) = .ok (.renderFrame 0x01#6) := by decide

theorem witness_StepRunsTheBenchMicroOp : configValid (State.reset.withFetchWord 32 0x30000007).cfg = true ∧
    (State.reset.withFetchWord 32 0x30000007).bench = some [0x30000007#32] ∧
    (State.reset.withFetchWord 32 0x30000007).busy = false ∧
    decode (.uop 0x30000007#32) = .ok (.pread .A 0b111#3) ∧
    ({ State.reset with bench := some [] } : State).bench = some [] := by decide

theorem witness_ReservedMicroOpsAreRefused : configValid (State.reset.withFetchWord 32 0x40010000).cfg = true ∧
    (State.reset.withFetchWord 32 0x40010000).bench = some [0x40010000#32] ∧
    (State.reset.withFetchWord 32 0x40010000).busy = false ∧
    ¬ UopFieldsLegal 0x40010000#32 := by
  refine ⟨by decide, by decide, by decide, ?_⟩
  unfold UopFieldsLegal; decide

theorem witness_ResetWinsAtABoundary :
    configValid ({ frameAt 0x35#6 19999 [⟨0, .offer 0x1001#16⟩] with resetAt := [0] } : State).cfg = true ∧
    ({ frameAt 0x35#6 19999 [⟨0, .offer 0x1001#16⟩] with resetAt := [0] } : State).onBench = false ∧
    ({ frameAt 0x35#6 19999 [⟨0, .offer 0x1001#16⟩] with resetAt := [0] } : State).rst = true := by decide

/-- While idle, and in a frame's last interval. -/
theorem witness_ReservedCommandIsConsumed : configValid (offering 0x2005#16).cfg = true ∧
    (offering 0x2005#16).onBench = false ∧
    (offering 0x2005#16).offer = .word 0x2005#16 ∧ (0x2005#16).extractLsb' 12 4 ≠ 0b0001#4 ∧
    (offering 0x2005#16).cmdReady = true ∧
    (frameAt 0x01#6 19999 [⟨0, .offer 0x2005#16⟩]).offer = .word 0x2005#16 ∧
    (frameAt 0x01#6 19999 [⟨0, .offer 0x2005#16⟩]).cmdReady = true := by decide

theorem witness_DoneMarksAFrameEnd : configValid (frameAt 0x01#6 19999 []).cfg = true ∧
    (frameAt 0x01#6 19999 []).onBench = false := by decide

/-- Both forms of an offer, each while `cmd_ready` = 0 and while it is 1, and an offer to be withdrawn both in its last
interval and before it. -/
theorem witness_OfferStaysUntilAccepted : configValid (frameAt 0x01#6 5 [⟨0, .offer 0x1001#16⟩]).cfg = true ∧
    (frameAt 0x01#6 5 [⟨0, .offer 0x1001#16⟩]).onBench = false ∧
    (frameAt 0x01#6 5 [⟨0, .offer 0x1001#16⟩]).host = ⟨0, .offer 0x1001#16⟩ :: [] ∧
    (frameAt 0x01#6 5 [⟨0, .offer 0x1001#16⟩]).now = 0 ∧
    (frameAt 0x01#6 5 [⟨0, .offer 0x1001#16⟩]).cmdReady = false ∧
    (offering 0x1001#16).host = ⟨0, .offer 0x1001#16⟩ :: [] ∧ (offering 0x1001#16).cmdReady = true := by decide

theorem witness_OfferStaysUntilAccepted_withdrawn :
    (frameAt 0x01#6 5 [⟨0, .offerUntil 0 0x1001#16⟩]).host = ⟨0, .offerUntil 0 0x1001#16⟩ :: [] ∧
    (frameAt 0x01#6 5 [⟨0, .offerUntil 0 0x1001#16⟩]).now = 0 ∧
    (frameAt 0x01#6 5 [⟨0, .offerUntil 0 0x1001#16⟩]).cmdReady = false ∧
    (frameAt 0x01#6 5 [⟨0, .offerUntil 7 0x1001#16⟩]).host = ⟨0, .offerUntil 7 0x1001#16⟩ :: [] ∧
    (frameAt 0x01#6 5 [⟨0, .offerUntil 7 0x1001#16⟩]).now < 7 ∧
    (frameAt 0x01#6 5 [⟨0, .offerUntil 7 0x1001#16⟩]).cmdReady = false ∧
    (frameAt 0x01#6 19999 [⟨0, .offerUntil 7 0x1001#16⟩]).host = ⟨0, .offerUntil 7 0x1001#16⟩ :: [] ∧
    (frameAt 0x01#6 19999 [⟨0, .offerUntil 7 0x1001#16⟩]).cmdReady = true := by decide

/-- Inside a frame, in its last interval, under reset, while idle, and with a test bench waiting for the frame. -/
theorem witness_OnlyTheStreamWritesTheLines : configValid (frameAt 0x01#6 599 []).cfg = true ∧
    (frameAt 0x01#6 599 []).onBench = false ∧ (frameAt 0x01#6 599 []).ready = false ∧
    (frameAt 0x01#6 19999 [⟨0, .offer 0x1001#16⟩]).onBench = false ∧
    ({ frameAt 0x01#6 599 [] with resetAt := [0] } : State).rst = true ∧
    State.reset.onBench = false ∧ State.reset.busy = false ∧
    ({ frameAt 0x01#6 599 [] with bench := some [0x11000006#32] } : State).onBench = false := by decide

/-- The last tick before the fall at 600: `t` = 598, so the coming tick is 599 and τ is 600. -/
theorem witness_LinesHoldDuringAWait : configValid (frameAt 0x01#6 598 []).cfg = true ∧
    (frameAt 0x01#6 598 []).onBench = false ∧ (frameAt 0x01#6 598 []).rst = false ∧
    (frameAt 0x01#6 598 []).ready = false ∧
    (frameAt 0x01#6 598 []).nextTick < (frameAt 0x01#6 598 []).tau := by decide

theorem witness_ParametersNeverChange : ∃ t, step State.reset = .next t := ⟨_, rfl⟩

theorem witness_ClockCyclesMakeOneTick : configValid State.reset.cfg = true ∧ State.reset.onBench = false ∧
    State.reset.pre = 0 := by decide

/-! ## Whole-machine rules -/

theorem witness_StepRefinesNext : (frameAt 0x35#6 19999 [⟨0, .offer 0x1001#16⟩]).Inv ∧
    ∀ evs, (frameAt 0x35#6 19999 [⟨0, .offer 0x1001#16⟩]).offer ≠ .events evs := by
  refine ⟨witness_Inv_last_interval, fun evs h => ?_⟩
  have : (frameAt 0x35#6 19999 [⟨0, .offer 0x1001#16⟩]).offer = .word 0x1001#16 := by decide
  rw [this] at h
  cases h

theorem witness_RunningFrameIgnoresOffers : (frameOf 0x35#6 [⟨0, .offer 0x1001#16⟩]).Inv ∧
    (frameOf 0x35#6 [⟨0, .offer 0x1001#16⟩]).ready = false :=
  ⟨witness_Inv_first_interval, by decide⟩

theorem noResetFor_of_nil {s : State} (h : s.resetAt = []) (n : Nat) : s.noResetFor n := by
  intro i _; rw [h]; exact List.not_mem_nil

theorem frameOf_no_reset : (frameOf 0x35#6 [⟨0, .offer 0x1001#16⟩]).resetAt = [] := by decide

theorem witness_FrameOccupiesItsPeriod : (frameOf 0x35#6 [⟨0, .offer 0x1001#16⟩]).Inv ∧
    (frameOf 0x35#6 [⟨0, .offer 0x1001#16⟩]).busy = true ∧ (frameOf 0x35#6 [⟨0, .offer 0x1001#16⟩]).t = 0 ∧
    (frameOf 0x35#6 [⟨0, .offer 0x1001#16⟩]).noResetFor (frameOf 0x35#6 [⟨0, .offer 0x1001#16⟩]).cfg.periodUs := by
  refine ⟨witness_Inv_first_interval, by decide, by decide, ?_⟩
  generalize (frameOf 0x35#6 [⟨0, .offer 0x1001#16⟩]).cfg.periodUs = n
  exact noResetFor_of_nil frameOf_no_reset n

/-- A command held from a frame's first interval, the worst case of R121, and one offered to an idle block. -/
theorem witness_HeldCommandStartsAtTheFrameBoundary : (frameOf 0x35#6 [⟨0, .offer 0x1001#16⟩]).Inv ∧
    (frameOf 0x35#6 [⟨0, .offer 0x1001#16⟩]).host = ⟨0, .offer 0x1001#16⟩ :: [] ∧
    (0x1001#16).extractLsb' 12 4 = 0b0001#4 ∧ (frameOf 0x35#6 [⟨0, .offer 0x1001#16⟩]).busy = true ∧
    (frameOf 0x35#6 [⟨0, .offer 0x1001#16⟩]).noResetFor 20000 ∧
    (offering 0x1001#16).Inv ∧ (offering 0x1001#16).busy = false ∧ (offering 0x1001#16).noResetFor 1 := by
  refine ⟨witness_Inv_first_interval, by decide, by decide, by decide, ?_,
    inv_reset_with [⟨0, .offer 0x1001#16⟩], rfl, noResetFor_of_nil rfl 1⟩
  exact noResetFor_of_nil frameOf_no_reset 20000

/-- The idle block with the moves of P2, one letter after the other. -/
def twoOffers : State := { State.reset with host := [⟨0, .offer 0x1035#16⟩, ⟨0, .offer 0x1001#16⟩] }

theorem witness_FramesRunBackToBack : twoOffers.Inv ∧ twoOffers.busy = false ∧ twoOffers.resetAt = [] ∧
    twoOffers.host = [0x1035#16, 0x1001#16].map (fun w => ⟨0, .offer w⟩) ∧
    (0x1035#16).extractLsb' 12 4 = 0b0001#4 ∧ (0x1001#16).extractLsb' 12 4 = 0b0001#4 :=
  ⟨inv_reset_with [⟨0, .offer 0x1035#16⟩, ⟨0, .offer 0x1001#16⟩], rfl, rfl, rfl, by decide, by decide⟩

/-- Nothing offered to an idle block, and a reserved command offered in a frame's last interval. -/
theorem witness_IdleUntilACommand : State.reset.Inv ∧ State.reset.ready = true ∧ State.reset.offer = .nothing ∧
    (frameAt 0x35#6 19999 [⟨0, .offer 0x2005#16⟩]).Inv ∧ (frameAt 0x35#6 19999 [⟨0, .offer 0x2005#16⟩]).ready = true ∧
    (frameAt 0x35#6 19999 [⟨0, .offer 0x2005#16⟩]).offer = .word 0x2005#16 ∧
    (0x2005#16).extractLsb' 12 4 ≠ 0b0001#4 := by
  refine ⟨inv_reset_with [], rfl, rfl, ?_, by decide, by decide, by decide⟩
  constructor <;> decide

end Sys2Proof.Tests
end

section
/-! Elaboration: the checks of `configValid` are the constraints of R8, and what `build` makes of a configuration. -/

namespace Sys2Proof.Machine

theorem Six_toList_eq_ofFn_get {α : Type} (v : Six α) : v.toList = List.ofFn v.get := rfl

/-- The default wiring reaches each of the six lines once (R68); so there are as many lines as pattern bits. -/
theorem referenceWiring_bijective : Function.Bijective Config.referenceWiring.get := by
  refine ⟨by decide, fun ⟨p, b⟩ => ?_⟩
  cases p <;> revert b <;> decide

/-- Six lines, no two equal, are a bijection: an injection between two sets of six is onto (R8). -/
theorem wiringBijective_iff (w : Six Line) : wiringBijective w = true ↔ Function.Bijective w.get := by
  have onto : Function.Injective w.get ↔ Function.Surjective w.get :=
    Finite.injective_iff_surjective_of_equiv (Equiv.ofBijective _ referenceWiring_bijective)
  rw [wiringBijective, decide_eq_true_eq, Six_toList_eq_ofFn_get, List.nodup_ofFn]
  exact ⟨fun h => ⟨h, onto.mp h⟩, And.left⟩

/-- The checks of elaboration are exactly the constraints of R8. -/
theorem configValid_iff (c : Config) : configValid c = true ↔ ConstraintsHold c := by
  simp only [configValid, ConstraintsHold, Bool.and_eq_true, decide_eq_true_eq, wiringBijective_iff, Nat.zero_le,
    true_and, and_assoc]

theorem build_valid {c : Config} (h : configValid c = true) : build c = .ok (State.resetFor c 0 [] []) := by
  unfold build; rw [if_pos h]

theorem build_invalid {c : Config} (h : configValid c = false) : build c = .error .invalidConfiguration := by
  unfold build; rw [if_neg (by simp [h])]

/-- `build` refuses a configuration for one reason only: a check of elaboration fails (R8, R102). -/
theorem build_error {c : Config} {r : Refusal} (h : build c = .error r) :
    configValid c = false ∧ r = .invalidConfiguration := by
  cases hv : configValid c with
  | true => rw [build_valid hv] at h; cases h
  | false => rw [build_invalid hv] at h; cases h; exact ⟨rfl, rfl⟩

end Sys2Proof.Machine
end

section
/-! What a step that goes on can be, and that none of its cases writes the parameters (R19). -/

namespace Sys2Proof.Machine

/-- A step that goes on is the bench's own, or a tick boundary; and its configuration is valid. -/
theorem step_next_cases {s t : State} (h : step s = .next t) :
    configValid s.cfg = true ∧
      (s.onBench = true ∧ s.benchStep = .next t ∨ s.onBench = false ∧ BoundaryCase s t) := by
  cases hv : configValid s.cfg with
  | false => rw [step_refused hv] at h; cases h
  | true =>
    refine ⟨rfl, ?_⟩
    cases hb : s.onBench with
    | true => exact .inl ⟨rfl, (step_bench hv hb).symm.trans h⟩
    | false =>
      obtain ⟨u, hu, hc⟩ := step_boundary_cases hv hb
      rw [hu] at h
      cases h
      exact .inr ⟨rfl, hc⟩

/-- A bench's step that goes on runs the instruction of its next word, or leaves the state as it is (R94). -/
theorem benchStep_next_cases {s t : State} (h : s.benchStep = .next t) :
    t = s ∨ ∃ u rest i, s.bench = some (u :: rest) ∧ decode (.uop u) = .ok i ∧
      exec i { s with bench := some rest } = .next t := by
  unfold State.benchStep at h
  split at h
  next u rest hb =>
    unfold runMicroOp at h
    split at h
    next i hi => exact .inr ⟨u, rest, i, hb, hi, h⟩
    next => cases h
  next => cases h; exact .inl rfl
  next => cases h; exact .inl rfl

@[simp] theorem startFrame_cfg (s : State) (ev : Six ChannelEvent) : (s.startFrame ev).cfg = s.cfg :=
  (startFrame_spec s ev).surroundings.cfg

@[simp] theorem advance_cfg (s : State) : s.advance.cfg = s.cfg :=
  (advance_spec s).surroundings.cfg

theorem execRenderFrame_cfg {pat : Pattern} {s t : State} (h : execRenderFrame pat s = .next t) : t.cfg = s.cfg := by
  cases hr : s.ready with
  | true => rw [execRenderFrame_ready hr] at h; obtain rfl := Host.Outcome.next.inj h; simp
  | false => rw [execRenderFrame_held hr] at h; obtain rfl := Host.Outcome.next.inj h; simp

theorem exec_cfg {i : Instr} {s t : State} (h : exec i s = .next t) : t.cfg = s.cfg := by
  cases i with
  | renderFrame pat => exact execRenderFrame_cfg h
  | pset p m => cases h; exact setBits_cfg s p m
  | pclr p m => cases h; exact clearBits_cfg s p m
  | pread p m => cases h; exact setResult_cfg s _
  | wait n => cases h; exact waitTicks_cfg s n

theorem benchStep_cfg {s t : State} (h : s.benchStep = .next t) : t.cfg = s.cfg := by
  rcases benchStep_next_cases h with rfl | ⟨u, rest, i, -, -, hx⟩
  · rfl
  · rw [exec_cfg hx]

theorem BoundaryCase.cfg {s t : State} (h : BoundaryCase s t) : t.cfg = s.cfg := by
  cases h <;> simp

end Sys2Proof.Machine
end

section
/-! What the registers hold (R21, R29). -/

namespace Sys2Proof.Machine

theorem durReg_lt (c : Config) (n : Nat) : c.durReg n < 2 ^ c.durW := Nat.mod_lt _ (Nat.two_pow_pos _)

theorem tReg_lt (c : Config) (n : Nat) : c.tReg n < 2 ^ c.tW := Nat.mod_lt _ (Nat.two_pow_pos _)

/-- A duration in range is held as it is (R29). -/
theorem durReg_of_le_period {c : Config} (h : configValid c = true) {n : Nat} (hn : n ≤ c.periodUs) :
    c.durReg n = n :=
  durReg_of_lt (hn.trans_lt (configFacts h).period_lt.1)

/-- A tick in range is held as it is (R29). -/
theorem tReg_of_le_period {c : Config} (h : configValid c = true) {n : Nat} (hn : n ≤ c.periodUs) :
    c.tReg n = n :=
  tReg_of_lt (hn.trans_lt (configFacts h).period_lt.2)

/-- In a frame or not, the tick counter is below the period (R23). -/
theorem State.Inv.t_lt_period {s : State} (h : s.Inv) : s.t < s.cfg.periodUs := by
  cases hb : s.busy with
  | true => exact h.frame_t hb
  | false => rw [h.idle_t hb]; exact (configFacts h.valid).period_pos

/-- Under the invariant counting a tick wraps nothing (R29). -/
theorem State.Inv.nextTick_eq {s : State} (h : s.Inv) : s.nextTick = s.t + 1 :=
  tReg_of_le_period h.valid h.t_lt_period

end Sys2Proof.Machine
end

section
/-! The obligations on the configuration and the registers (00_scope.md). -/

open Sys2Proof Sys2Proof.Machine

/-- Settles O27: the checks of elaboration are the constraints of R8. -/
theorem invalidConfigurationIsRefused : Obligations.InvalidConfigurationIsRefused := by
  unfold Obligations.InvalidConfigurationIsRefused
  intro c hc
  exact build_invalid (Bool.eq_false_iff.mpr (mt (configValid_iff c).mp hc))

/-- Settles O28: `build` and `step` make the same check, which the constraints of R8 pass. -/
theorem validConfigurationBuilds : Obligations.ValidConfigurationBuilds := by
  unfold Obligations.ValidConfigurationBuilds
  refine ⟨fun c hc => build_valid ((configValid_iff c).mpr hc), fun s r h => ?_⟩
  obtain ⟨hv, rfl⟩ := build_error h
  exact step_refused hv

/-- Settles O35: neither a bench's step nor any case of a boundary writes the parameters. -/
theorem parametersNeverChange : Obligations.ParametersNeverChange := by
  unfold Obligations.ParametersNeverChange
  intro s t h
  obtain ⟨-, ⟨-, hbench⟩ | ⟨-, hboundary⟩⟩ := step_next_cases h
  · exact benchStep_cfg hbench
  · exact hboundary.cfg

/-- Settles O48: every value the invariant admits is at most the period, which R8 keeps below both widths. -/
theorem registersHoldWhatIsWritten : Obligations.RegistersHoldWhatIsWritten := by
  unfold Obligations.RegistersHoldWhatIsWritten
  refine ⟨fun c n => ⟨durReg_lt c n, tReg_lt c n⟩,
    fun c n hv hn => ⟨durReg_of_le_period hv hn, tReg_of_le_period hv hn⟩, fun s hs => ?_⟩
  obtain ⟨hdurW, htW⟩ := (configFacts hs.valid).period_lt
  exact ⟨hs.t_lt_period.trans htW, fun hb => ⟨hs.nextTick_eq, fun k => (hs.frame_durs hb k).trans_lt hdurW⟩⟩
end

section
/-! The lines as the closed form (R78, R81): the frame stream performed up to an instant, read one line at a time. -/

namespace Sys2Proof.Machine

/-- Slot b of port p, of the two slices. -/
def lineBit (ports : Slice × Slice) (p : Port) (b : Fin 3) : Bool :=
  match p with
  | .A => ports.1.getLsbD b
  | .B => ports.2.getLsbD b

/-- The event acts on slot b of port p (R81). -/
def actsOn (e : ChannelEvent) (p : Port) (b : Fin 3) : Bool :=
  decide (e.port = p) && e.mask.getLsbD b

theorem lineBit_pset (ports : Slice × Slice) (e : ChannelEvent) (p : Port) (b : Fin 3) :
    lineBit (uopOnPorts ports (.pset e.port e.mask)) p b = (lineBit ports p b || actsOn e p b) := by
  obtain ⟨q, m, d⟩ := e
  cases q <;> cases p <;> simp [uopOnPorts, lineBit, actsOn]

theorem lineBit_pclr (ports : Slice × Slice) (e : ChannelEvent) (p : Port) (b : Fin 3) :
    lineBit (uopOnPorts ports (.pclr e.port e.mask)) p b = (lineBit ports p b && !actsOn e p b) := by
  obtain ⟨q, m, d⟩ := e
  cases q <;> cases p <;> simp [uopOnPorts, lineBit, actsOn]

/-- The slices after the micro-operations of instant at most `limit`, where the first of `is` has instant `tau`. -/
def portsUpTo (limit tau : Nat) (ports : Slice × Slice) (is : List Instr) : Slice × Slice :=
  ((withInstants tau is).filter (fun e => decide (e.1 ≤ limit))).foldl (fun ports e => uopOnPorts ports e.2) ports

theorem portsUpTo_nil (limit tau : Nat) (ports : Slice × Slice) : portsUpTo limit tau ports [] = ports := rfl

theorem portsUpTo_cons (limit tau : Nat) (ports : Slice × Slice) (i : Instr) (is : List Instr) :
    portsUpTo limit tau ports (i :: is)
      = portsUpTo limit (tau + uopTicks i) (if tau ≤ limit then uopOnPorts ports i else ports) is := by
  by_cases h : tau ≤ limit <;> simp [portsUpTo, withInstants, h]

/-- A WAIT moves the instant on and leaves the lines. -/
theorem portsUpTo_wait (limit tau n : Nat) (ports : Slice × Slice) (is : List Instr) :
    portsUpTo limit tau ports (.wait n :: is) = portsUpTo limit (tau + n) ports is := by
  simp [portsUpTo_cons, uopTicks, uopOnPorts]

/-- The falling edges clear a line exactly when an event that acts on it has a duration within the limit (R80). -/
theorem lineBit_fallingEdges (c : Config) (ev : Six ChannelEvent) (limit : Nat) (p : Port) (b : Fin 3)
    (order : List (Fin 6)) (sorted : order.Pairwise (fun j k => (ev.get j).dur ≤ (ev.get k).dur)) :
    ∀ (elapsed : Nat) (ports : Slice × Slice), (∀ k ∈ order, elapsed ≤ (ev.get k).dur) →
      lineBit (portsUpTo limit elapsed ports (fallingEdges c ev order elapsed)) p b
        = (lineBit ports p b && order.all (fun k => !actsOn (ev.get k) p b || decide (limit < (ev.get k).dur))) := by
  induction order with
  | nil => intro elapsed ports _; simp [fallingEdges, portsUpTo_wait, portsUpTo_nil]
  | cons k ks ih =>
    intro elapsed ports hle
    obtain ⟨hk, hks⟩ := List.pairwise_cons.mp sorted
    have instant : elapsed + ((ev.get k).dur - elapsed) = (ev.get k).dur :=
      Nat.add_sub_cancel' (hle k List.mem_cons_self)
    rw [fallingEdges, portsUpTo_wait, instant, portsUpTo_cons]
    simp only [uopTicks, Nat.add_zero]
    rw [ih hks _ _ hk, List.all_cons, ← Bool.and_assoc]
    congr 1
    by_cases hd : (ev.get k).dur ≤ limit
    · simp [hd, lineBit_pclr, Nat.not_lt.mpr hd]
    · simp [hd, Nat.lt_of_not_le hd]

/-- The slices after the PSETs of some slots, in turn. -/
def afterRises (ev : Six ChannelEvent) (slots : List (Fin 6)) (ports : Slice × Slice) : Slice × Slice :=
  slots.foldl (fun ports k => uopOnPorts ports (.pset (ev.get k).port (ev.get k).mask)) ports

/-- The rising edges are of instant 0, so within every limit (R79). -/
theorem portsUpTo_risingEdges (ev : Six ChannelEvent) (limit : Nat) (rest : List Instr) (slots : List (Fin 6)) :
    ∀ ports, portsUpTo limit 0 ports (slots.map (fun k => .pset (ev.get k).port (ev.get k).mask) ++ rest)
      = portsUpTo limit 0 (afterRises ev slots ports) rest := by
  induction slots with
  | nil => exact fun _ => rfl
  | cons k ks ih =>
    intro ports
    rw [List.map_cons, List.cons_append, portsUpTo_cons, if_pos (Nat.zero_le limit)]
    exact ih _

theorem lineBit_afterRises (ev : Six ChannelEvent) (p : Port) (b : Fin 3) (slots : List (Fin 6)) :
    ∀ ports, lineBit (afterRises ev slots ports) p b
      = (lineBit ports p b || slots.any (fun k => actsOn (ev.get k) p b)) := by
  induction slots with
  | nil => simp [afterRises]
  | cons k ks ih =>
    intro ports
    rw [List.any_cons, ← Bool.or_assoc, ← lineBit_pset]
    exact ih _

theorem lineHigh_eq (ev : Six ChannelEvent) (p : Port) (b : Fin 3) (tau : Nat) :
    lineHigh ev p b tau = (channels.any (fun k => actsOn (ev.get k) p b) &&
      channels.all (fun k => !actsOn (ev.get k) p b || decide (tau < (ev.get k).dur))) := by
  have touch : touching ev p b = channels.filter (fun k => actsOn (ev.get k) p b) := rfl
  rw [lineHigh, touch, List.all_filter]
  congr 1
  rw [Bool.eq_iff_iff]
  simp

/-- After the micro-operations of instant at most τ, a line is what the closed form says, whatever sorted order the
falls take (R81, R84). -/
theorem lineBit_portsByStream (c : Config) (ev : Six ChannelEvent) {order : List (Fin 6)} (tau : Nat) (p : Port)
    (b : Fin 3) (perm : order.Perm channels)
    (sorted : order.Pairwise (fun j k => (ev.get j).dur ≤ (ev.get k).dur)) :
    lineBit (portsByStream (streamInOrder c ev order) tau) p b = lineHigh ev p b tau := by
  have low : lineBit (0#3, 0#3) p b = false := by cases p <;> simp [lineBit]
  have run : portsByStream (streamInOrder c ev order) tau
      = portsUpTo tau 0 (afterRises ev channels (0#3, 0#3)) (fallingEdges c ev order 0) :=
    portsUpTo_risingEdges ev tau _ channels _
  rw [run, lineBit_fallingEdges c ev tau p b order sorted 0 _ (fun _ _ => Nat.zero_le _), lineBit_afterRises, low,
    Bool.false_or, perm.all_eq, lineHigh_eq]

theorem closedForm_getLsbD (ev : Six ChannelEvent) (p : Port) (tau : Nat) (b : Fin 3) :
    (closedForm ev p tau).getLsbD b = lineHigh ev p b tau := by
  have bits : ∀ x y z : Bool, (BitVec.ofBool z ++ BitVec.ofBool y ++ BitVec.ofBool x : Slice).getLsbD 0 = x ∧
      (BitVec.ofBool z ++ BitVec.ofBool y ++ BitVec.ofBool x : Slice).getLsbD 1 = y ∧
      (BitVec.ofBool z ++ BitVec.ofBool y ++ BitVec.ofBool x : Slice).getLsbD 2 = z := by decide
  obtain ⟨h0, h1, h2⟩ := bits (lineHigh ev p 0 tau) (lineHigh ev p 1 tau) (lineHigh ev p 2 tau)
  match b with
  | 0 => exact h0
  | 1 => exact h1
  | 2 => exact h2

theorem ports_ext {a b : Slice × Slice} (h : ∀ p k, lineBit a p k = lineBit b p k) : a = b := by
  exact Prod.ext (BitVec.eq_of_getLsbD_eq fun i hi => h .A ⟨i, hi⟩)
    (BitVec.eq_of_getLsbD_eq fun i hi => h .B ⟨i, hi⟩)

/-- The micro-operations of instants up to τ leave the closed form at τ (R78, R81, R84). -/
theorem portsByStream_eq_closedForm (c : Config) (ev : Six ChannelEvent) {order : List (Fin 6)} (tau : Nat)
    (perm : order.Perm channels)
    (sorted : order.Pairwise (fun j k => (ev.get j).dur ≤ (ev.get k).dur)) :
    portsByStream (streamInOrder c ev order) tau = (closedForm ev .A tau, closedForm ev .B tau) := by
  refine ports_ext fun p b => ?_
  rw [lineBit_portsByStream c ev tau p b perm sorted]
  cases p <;> exact (closedForm_getLsbD ev _ tau b).symm

/-- Past every duration the closed form is all low. -/
theorem closedForm_eq_zero {ev : Six ChannelEvent} {tau : Nat} (h : ∀ k, (ev.get k).dur ≤ tau) (p : Port) :
    closedForm ev p tau = 0#3 := by
  refine BitVec.eq_of_getLsbD_eq fun i hi => ?_
  rw [show i = (⟨i, hi⟩ : Fin 3).val from rfl, closedForm_getLsbD, lineHigh_eq, BitVec.getLsbD_zero,
    Bool.eq_false_iff]
  simp only [ne_eq, Bool.and_eq_true, List.any_eq_true, List.all_eq_true, Bool.or_eq_true, Bool.not_eq_true',
    decide_eq_true_eq]
  rintro ⟨⟨k, hk, hacts⟩, hall⟩
  rcases hall k hk with hnot | hlt
  · rw [hacts] at hnot; cases hnot
  · exact absurd hlt (Nat.not_lt.mpr (h k))

end Sys2Proof.Machine
end

section
/-! The order of the falls (R75), and the sequencer's run from a frame's start as the frame stream. -/

namespace Sys2Proof.Machine

theorem sortEvents_toList (c : Config) (ev : Six ChannelEvent) :
    (sortEvents c ev).toList = sortSlots (firesBefore c ev) channels :=
  Six_toList_ofList _ ((sortSlots_perm _ channels).length_eq)

theorem sortEvents_perm (c : Config) (ev : Six ChannelEvent) : (sortEvents c ev).toList.Perm channels := by
  rw [sortEvents_toList]; exact sortSlots_perm _ channels

theorem sortEvents_sorted (c : Config) (ev : Six ChannelEvent) :
    (sortEvents c ev).toList.Pairwise (fun a b => (ev.get a).dur ≤ (ev.get b).dur) := by
  rw [sortEvents_toList]
  refine (sortSlots_pairwise (firesBefore_total c ev) (firesBefore_trans c ev) channels).imp fun {a b} h => ?_
  have := (firesBefore_iff c ev a b).mp h
  omega

theorem streamEntry_rise : ∀ (k : Fin 6) (u : Fin 20), u.val = k.val → streamEntry u = .rise k := by decide

theorem streamEntry_await :
    ∀ (j : Fin 6) (u : Fin 20), u.val = 6 + 2 * j.val → streamEntry u = .await j := by decide

theorem streamEntry_fall : ∀ (j : Fin 6) (u : Fin 20), u.val = 7 + 2 * j.val → streamEntry u = .fall j := by decide

theorem streamEntry_pad : ∀ u : Fin 20, u.val = 18 → streamEntry u = .pad := by decide

theorem emits_cons {s : State} {i : Instr} (h : s.nextUop = some i) (n : Nat) :
    State.emits (n + 1) s = i :: State.emits n s.performEntry := by
  rw [State.emits, h]

theorem performEntry_elapsed {s : State} (h : s.upc.val < 19) : s.performEntry.elapsed = s.elapsedAfter := by
  obtain ⟨i, hi⟩ := Option.isSome_iff_exists.mp ((nextUop_isSome s).trans (decide_eq_true h))
  simp only [State.performEntry, hi]
  cases i <;> rfl

/-- Performing an entry changes none of what the later entries are computed from, but the index and `elapsed`. -/
theorem performEntry_fallEvent (s : State) (j : Fin 6) : s.performEntry.fallEvent j = s.fallEvent j := by
  rw [State.fallEvent, State.fallEvent, (performEntry_same s).ev, (performEntry_same s).sigma]

theorem Six_toList_drop {α : Type} (v : Six α) (j : Fin 6) :
    v.toList.drop j = v.get j :: v.toList.drop (j + 1) := by
  match j with
  | 0 | 1 | 2 | 3 | 4 | 5 => rfl

theorem channels_drop : ∀ k : Fin 6, channels.drop k = k :: channels.drop (k + 1) := by decide

/-- At the `j`-th fall the sequencer emits its WAIT and its PCLR, and comes to the next with that event's duration
elapsed (R76). -/
theorem emits_fall {s : State} {j : Fin 6} (h : s.upc.val = 6 + 2 * j) (n : Nat) :
    ∃ t, SameButSequencer s t ∧ t.upc.val = 6 + 2 * (j + 1) ∧ t.elapsed = (s.fallEvent j).dur ∧
      State.emits (n + 2) s = .wait ((s.fallEvent j).dur - s.elapsed) ::
        .pclr (s.fallEvent j).port (s.fallEvent j).mask :: State.emits n t := by
  have hawait := streamEntry_await j s.upc h
  have hupc : s.performEntry.upc.val = 7 + 2 * j := by rw [performEntry_upc (by omega), h]; omega
  have hfall := streamEntry_fall j s.performEntry.upc hupc
  refine ⟨s.performEntry.performEntry, (performEntry_same s).trans (performEntry_same _), ?_, ?_, ?_⟩
  · rw [performEntry_upc (by omega), hupc]; omega
  · rw [performEntry_elapsed (by omega), State.elapsedAfter, hfall]
    simp only [performEntry_fallEvent]
  · rw [emits_cons (i := .wait ((s.fallEvent j).dur - s.elapsed)) (by simp only [State.nextUop, hawait]),
      emits_cons (i := .pclr (s.fallEvent j).port (s.fallEvent j).mask)
        (by simp only [State.nextUop, hfall, performEntry_fallEvent])]

/-- From the `j`-th fall on the sequencer emits the falling edges that are left, and the padding (R76). -/
theorem emits_falls : ∀ (left j : Nat) (s : State), j + left = 6 → s.upc.val = 6 + 2 * j →
    State.emits (2 * left + 1) s = fallingEdges s.cfg s.ev (s.sigma.toList.drop j) s.elapsed := by
  intro left
  induction left with
  | zero =>
    intro j s hj hupc
    obtain rfl : j = 6 := hj
    exact emits_cons (by simp only [State.nextUop, streamEntry_pad s.upc hupc]) 0
  | succ left ih =>
    intro j s hj hupc
    have hj6 : j < 6 := by omega
    obtain ⟨t, same, ht, helapsed, hemits⟩ := emits_fall (j := ⟨j, hj6⟩) hupc (2 * left + 1)
    rw [show 2 * (left + 1) + 1 = 2 * left + 1 + 2 by omega, hemits, ih (j + 1) t (by omega) ht, same.cfg, same.ev,
      same.sigma, helapsed, Six_toList_drop s.sigma ⟨j, hj6⟩]
    rfl

/-- From slot `k`'s rising edge on the sequencer emits the PSETs that are left, and all the falling edges (R76). -/
theorem emits_rises : ∀ (left k : Nat) (s : State), k + left = 6 → s.upc.val = k →
    State.emits (left + 13) s = (channels.drop k).map (fun k => .pset (s.ev.get k).port (s.ev.get k).mask) ++
      fallingEdges s.cfg s.ev s.sigma.toList s.elapsed := by
  intro left
  induction left with
  | zero =>
    intro k s hk hupc
    obtain rfl : k = 6 := hk
    exact emits_falls 6 0 s rfl hupc
  | succ left ih =>
    intro k s hk hupc
    have hk6 : k < 6 := by omega
    have hrise := streamEntry_rise ⟨k, hk6⟩ s.upc hupc
    have same := performEntry_same s
    have helapsed : s.performEntry.elapsed = s.elapsed := by
      rw [performEntry_elapsed (by omega), State.elapsedAfter, hrise]
    have hnext : s.nextUop = some (.pset (s.ev.get ⟨k, hk6⟩).port (s.ev.get ⟨k, hk6⟩).mask) := by
      simp only [State.nextUop, hrise]
    rw [show left + 1 + 13 = left + 13 + 1 by omega, emits_cons hnext,
      ih (k + 1) s.performEntry (by omega) (by rw [performEntry_upc (by omega), hupc]), same.cfg, same.ev, same.sigma,
      helapsed, channels_drop ⟨k, hk6⟩]
    rfl

/-- From the start of a frame the sequencer emits the frame stream, with the falls in its order σ (R76). -/
theorem emits_atFrameStart (s : State) :
    State.emits 19 s.atFrameStart = streamInOrder s.cfg s.ev s.sigma.toList :=
  emits_rises 6 0 s.atFrameStart rfl rfl

/-- The lines in interval `tau` of a frame are the closed form (R78, R81). -/
theorem performDue_atFrameStart_ports {s : State} (h : s.sigma = sortEvents s.cfg s.ev) (tau : Nat) :
    (s.atFrameStart.performDue tau).ports = (closedForm s.ev .A tau, closedForm s.ev .B tau) := by
  have run := performUpTo_ports tau 19 s.atFrameStart
  rw [emits_atFrameStart, h] at run
  exact run.trans
    (portsByStream_eq_closedForm s.cfg s.ev tau (sortEvents_perm s.cfg s.ev) (sortEvents_sorted s.cfg s.ev))

end Sys2Proof.Machine
end

section
/-! The invariant at a boundary (R78, R87): a frame's lines, the frame's end with every line low, the frame started, and
the frame gone on by one tick. -/

namespace Sys2Proof.Machine

theorem SameButSequencer.atFrameStart {s t : State} (h : SameButSequencer s t) : t.atFrameStart = s.atFrameStart := by
  cases s; cases t; cases h; simp_all [State.atFrameStart]

/-- In a frame the lines are the closed form of its events (R78, R81). -/
theorem State.Inv.frame_ports {s : State} (h : s.Inv) (hb : s.busy = true) (p : Port) :
    s.port p = closedForm s.ev p s.t := by
  have run := performDue_atFrameStart_ports (h.frame_sigma hb) s.t
  rw [h.frame_stream hb] at run
  obtain ⟨hA, hB⟩ := Prod.mk.inj run
  cases p
  · exact hA
  · exact hB

/-- When a frame ends every line is low (R78, R82). -/
theorem State.Inv.finishStream_low {s : State} (h : s.Inv) (hb : s.busy = true) :
    s.finishStream.portA = 0#3 ∧ s.finishStream.portB = 0#3 := by
  have whole : s.finishStream = s.atFrameStart.performDue s.cfg.periodUs := by
    have := performDue_performDue (h.frame_t hb).le s.atFrameStart
    rwa [h.frame_stream hb] at this
  have run := performDue_atFrameStart_ports (h.frame_sigma hb) s.cfg.periodUs
  rw [← whole, closedForm_eq_zero (h.frame_durs hb), closedForm_eq_zero (h.frame_durs hb)] at run
  exact Prod.mk.inj run

/-- The invariant reads none of the fields the sequencer leaves to others, but `busy` and `t`. -/
theorem State.Inv.withOthers {s : State} (h : s.Inv) (pat : Pattern) (done : Bool) (pre now : Nat)
    (resetAt : List Nat) (host : List HostMove) :
    (s.withOthers s.busy s.t pat done pre now resetAt host).Inv where
  valid := h.valid
  inService := h.inService
  idle_t := h.idle_t
  idle_lines := h.idle_lines
  frame_t := h.frame_t
  frame_durs := h.frame_durs
  frame_sigma := h.frame_sigma
  frame_stream hb := by
    have := performDue_withOthers s.atFrameStart s.t s.busy s.t pat done pre now resetAt host
    rwa [h.frame_stream hb] at this

theorem State.Inv.nextInterval {s : State} (h : s.Inv) : s.nextInterval.Inv :=
  h.withOthers s.pat s.done s.pre (s.now + 1) s.resetAt (movesAfter s.now s.accepts s.host)

theorem ending_iff (s : State) : s.ending = true ↔ s.busy = true ∧ s.t + 1 = s.cfg.periodUs := by
  simp [State.ending]

/-- A ready block is idle, or ends its frame at this boundary (R87). -/
theorem ready_iff (s : State) : s.ready = true ↔ s.busy = false ∨ s.ending = true := by
  cases hb : s.busy <;> simp [State.ready, State.ending, hb]

theorem atFrameStart_eq_self {s : State} (hu : s.upc = 0) (he : s.elapsed = 0) (ht : s.tau = 0) (hA : s.portA = 0#3)
    (hB : s.portB = 0#3) : s.atFrameStart = s := by
  cases s; simp_all [State.atFrameStart]

/-- The invariant of a state in a frame: what it says of an idle one is empty there. -/
theorem inv_of_busy {s : State} (hb : s.busy = true) (valid : configValid s.cfg = true) (inService : s.bench = none)
    (ht : s.t < s.cfg.periodUs) (hd : ∀ k, (s.ev.get k).dur ≤ s.cfg.periodUs)
    (hsigma : s.sigma = sortEvents s.cfg s.ev) (hstream : s.atFrameStart.performDue s.t = s) : s.Inv where
  valid := valid
  inService := inService
  idle_t h := absurd (hb.symm.trans h) (by simp)
  idle_lines h := absurd (hb.symm.trans h) (by simp)
  frame_t _ := ht
  frame_durs _ := hd
  frame_sigma _ := hsigma
  frame_stream _ := hstream

/-- The invariant of an idle state: what it says of a frame is empty there. -/
theorem inv_of_idle {s : State} (hb : s.busy = false) (valid : configValid s.cfg = true) (inService : s.bench = none)
    (ht : s.t = 0) (hlines : s.portA = 0#3 ∧ s.portB = 0#3) : s.Inv where
  valid := valid
  inService := inService
  idle_t _ := ht
  idle_lines _ := hlines
  frame_t h := absurd (hb.symm.trans h) (by simp)
  frame_durs h := absurd (hb.symm.trans h) (by simp)
  frame_sigma h := absurd (hb.symm.trans h) (by simp)
  frame_stream h := absurd (hb.symm.trans h) (by simp)

/-- A frame loaded where every line is low meets the invariant once the micro-operations of instant 0 are performed. -/
theorem inv_loadFrame {s : State} {ev : Six ChannelEvent} (valid : configValid s.cfg = true)
    (inService : s.bench = none) (low : s.portA = 0#3 ∧ s.portB = 0#3) (hd : ∀ k, (ev.get k).dur ≤ s.cfg.periodUs)
    (d : Bool) : (((s.loadFrame ev).setDone d).performDue 0).Inv := by
  have same := performDue_same ((s.loadFrame ev).setDone d) 0
  have start : ((s.loadFrame ev).setDone d).atFrameStart = (s.loadFrame ev).setDone d :=
    atFrameStart_eq_self rfl rfl rfl low.1 low.2
  have stream := congrArg (·.performDue 0) (same.atFrameStart.trans start)
  refine inv_of_busy same.busy ?_ (same.bench.trans inService) ?_ ?_ ?_ ?_
  · rw [same.cfg]; exact valid
  · rw [same.t, same.cfg]; exact (configFacts valid).period_pos
  · rw [same.ev, same.cfg]; exact hd
  · rw [same.sigma, same.ev, same.cfg]; rfl
  · rw [same.t]; exact stream

/-- A ready block starts a frame with every line low: it is idle, or its frame has just ended. -/
theorem State.Inv.startFrame {s : State} (h : s.Inv) (hr : s.ready = true) {ev : Six ChannelEvent}
    (hd : ∀ k, (ev.get k).dur ≤ s.cfg.periodUs) : (s.startFrame ev).Inv := by
  cases he : s.ending with
  | true =>
    obtain ⟨hb, -⟩ := (ending_iff s).mp he
    have same := finishStream_same s
    rw [startFrame_ending he]
    exact inv_loadFrame (same.cfg ▸ h.valid) (same.bench.trans h.inService) (h.finishStream_low hb)
      (same.cfg ▸ hd) true
  | false =>
    have hb : s.busy = false := ((ready_iff s).mp hr).resolve_right (by simp [he])
    rw [startFrame_idle he]
    exact inv_loadFrame h.valid h.inService (h.idle_lines hb) hd false

/-- Inside a frame one more tick performs exactly what falls due at it (R78). -/
theorem State.Inv.advance_inFrame {s : State} (h : s.Inv) (he : s.ending = false) (hb : s.busy = true) :
    s.advance.Inv := by
  obtain ⟨surroundings, hbusy, htick, -, hev, -, hsigma⟩ := advance_spec s
  have ht : s.advance.t = s.t + 1 := by rw [htick, he, hb, h.nextTick_eq]; rfl
  have inside : s.t + 1 < s.cfg.periodUs :=
    lt_of_le_of_ne (h.frame_t hb) (fun hend => by simp [(ending_iff s).mpr ⟨hb, hend⟩] at he)
  have stream : s.advance.atFrameStart.performDue s.nextTick = s.advance := by
    have shared := performDue_withOthers s.atFrameStart s.t s.busy s.nextTick s.pat false s.pre s.now s.resetAt s.host
    have later := performDue_performDue (h.nextTick_eq ▸ Nat.le_succ s.t : s.t ≤ s.nextTick)
      (s.atFrameStart.withOthers s.busy s.nextTick s.pat false s.pre s.now s.resetAt s.host)
    rw [shared, h.frame_stream hb] at later
    rw [advance_running he hb, (performDue_same _ _).atFrameStart]
    exact later.symm
  refine inv_of_busy (by simp [hbusy, hb, he]) ?_ (surroundings.bench.trans h.inService) ?_ ?_ ?_ ?_
  · rw [surroundings.cfg]; exact h.valid
  · rwa [ht, surroundings.cfg]
  · rw [hev, surroundings.cfg]; exact h.frame_durs hb
  · rw [hsigma, hev, surroundings.cfg]; exact h.frame_sigma hb
  · rwa [ht, ← h.nextTick_eq]

/-- A boundary at which no frame starts keeps the invariant: the block goes idle with every line low, its frame goes on,
or it stays idle. -/
theorem State.Inv.advance {s : State} (h : s.Inv) : s.advance.Inv := by
  cases he : s.ending with
  | true =>
    obtain ⟨hb, -⟩ := (ending_iff s).mp he
    have same := finishStream_same s
    rw [advance_ending he]
    exact inv_of_idle rfl (same.cfg ▸ h.valid) (same.bench.trans h.inService) rfl (h.finishStream_low hb)
  | false =>
    cases hb : s.busy with
    | true => exact h.advance_inFrame he hb
    | false =>
      rw [advance_idle hb]
      exact inv_of_idle hb h.valid h.inService (h.idle_t hb) (h.idle_lines hb)

/-- Every stored duration is at most the period (R29, R73). -/
theorem clampEvents_dur_le (c : Config) (evs : Six RawEvent) (k : Fin 6) :
    ((clampEvents c evs).get k).dur ≤ c.periodUs := by
  rw [clampEvents, Six_get_ofFn]
  exact (Nat.mod_le _ _).trans (Nat.min_le_right _ _)

theorem State.Inv.takeReset {s : State} (h : s.Inv) : s.takeReset.Inv :=
  inv_of_idle rfl h.valid h.inService rfl ⟨rfl, rfl⟩

/-- Every case of a tick boundary keeps the invariant. -/
theorem BoundaryCase.inv {s t : State} (hc : BoundaryCase s t) (h : s.Inv) : t.Inv := by
  cases hc with
  | reset _ => exact h.nextInterval.takeReset
  | accepted w _ _ _ hr =>
    have captured := h.withOthers (patternField w) s.done s.pre (s.now + 1) s.resetAt
      (movesAfter s.now s.accepts s.host)
    exact captured.startFrame hr (clampEvents_dur_le s.cfg _)
  | harness evs _ _ hr => exact h.nextInterval.startFrame hr (clampEvents_dur_le s.cfg evs)
  | advanced _ _ => exact h.nextInterval.advance

end Sys2Proof.Machine
end

section
/-! `done` after a boundary (R27). -/

namespace Sys2Proof.Machine

/-- After a boundary `done` says whether a frame ended there, and reset was not sampled (R27, R115). -/
theorem BoundaryCase.done {s t : State} (hc : BoundaryCase s t) : t.done = (s.ending && !s.rst) := by
  cases hc with
  | reset h => rw [h, Bool.not_true, Bool.and_false]; rfl
  | accepted w h _ _ _ => rw [h, Bool.not_false, Bool.and_true]; exact (startFrame_spec _ _).done
  | harness evs h _ _ => rw [h, Bool.not_false, Bool.and_true]; exact (startFrame_spec _ _).done
  | advanced h _ => rw [h, Bool.not_false, Bool.and_true]; exact (advance_spec _).done

end Sys2Proof.Machine
end

section
/-! The host and the events of a running frame (R25): the harness makes no move, and a bench's micro-operation is no
command. -/

namespace Sys2Proof.Machine

/-- A bench's word is a micro-operation, not the host's command (R49, R54). -/
theorem decode_uop_ne_renderFrame {u : UopWord} {pat : Pattern} : decode (.uop u) ≠ .ok (.renderFrame pat) := by
  intro h
  simp only [decode, decodeUop] at h
  split_ifs at h <;> cases h

theorem exec_microOp_busy_host {i : Instr} {s t : State} (hi : ∀ pat, i ≠ .renderFrame pat)
    (h : exec i s = .next t) : t.busy = s.busy ∧ t.host = s.host := by
  cases i with
  | renderFrame pat => exact absurd rfl (hi pat)
  | pset p m => cases h; exact ⟨rfl, rfl⟩
  | pclr p m => cases h; exact ⟨rfl, rfl⟩
  | pread p m => cases h; exact ⟨rfl, rfl⟩
  | wait n => cases h; exact ⟨rfl, rfl⟩

/-- A test bench has the state only with no frame in progress (R43, R94). -/
theorem onBench_idle {s : State} (h : s.onBench = true) : s.busy = false := by
  rw [State.onBench, Bool.and_eq_true, Bool.not_eq_true'] at h
  exact h.2

/-- A test bench's step neither starts a frame nor makes a move of the host (R94). -/
theorem benchStep_busy_host {s t : State} (h : s.benchStep = .next t) : t.busy = s.busy ∧ t.host = s.host := by
  rcases benchStep_next_cases h with rfl | ⟨u, rest, i, -, hi, hx⟩
  · exact ⟨rfl, rfl⟩
  · have kept := exec_microOp_busy_host (fun pat hp => decode_uop_ne_renderFrame (hp ▸ hi)) hx
    exact kept

/-- After an interval the first pending move is over, or stays, or is withdrawn and a pause stands for it (R90,
R109). -/
theorem movesAfter_cons (now : Nat) (accepted : Bool) (m : HostMove) (rest : List HostMove) :
    movesAfter now accepted (m :: rest) = rest ∨ movesAfter now accepted (m :: rest) = m :: rest ∨
      movesAfter now accepted (m :: rest) = ⟨0, .pause⟩ :: rest := by
  obtain ⟨start, act⟩ := m
  simp only [movesAfter]
  split_ifs
  · cases act <;> simp
  · cases act with
    | offerUntil last w => by_cases hl : last ≤ now <;> simp [hl]
    | _ => simp
  · simp

theorem movesAfter_noHarness {moves : List HostMove} (h : moves.all HostMove.isNoHarness = true) (now : Nat)
    (accepted : Bool) : (movesAfter now accepted moves).all HostMove.isNoHarness = true := by
  cases moves with
  | nil => rfl
  | cons m rest =>
    have hrest : rest.all HostMove.isNoHarness = true := by
      rw [List.all_cons, Bool.and_eq_true] at h
      exact h.2
    rcases movesAfter_cons now accepted m rest with hm | hm | hm <;> rw [hm]
    · exact hrest
    · exact h
    · rw [List.all_cons, hrest]; rfl

/-- A host without the harness offers no events (R74). -/
theorem offer_ne_events {s : State} (h : s.host.all HostMove.isNoHarness = true) (evs : Six RawEvent) :
    s.offer ≠ .events evs := by
  unfold State.offer
  cases hm : s.host with
  | nil => simp
  | cons m rest =>
    rw [hm, List.all_cons, Bool.and_eq_true] at h
    obtain ⟨start, act⟩ := m
    cases act with
    | harness evs => cases h.1
    | _ => simp only [HostMove.offer]; split <;> simp

/-- The host's side of a boundary goes on by one interval, whatever the block does there. -/
theorem BoundaryCase.host {s t : State} (hc : BoundaryCase s t) : t.host = movesAfter s.now s.accepts s.host := by
  cases hc with
  | reset _ => rfl
  | accepted w _ _ _ _ => exact (startFrame_spec _ _).surroundings.host
  | harness evs _ _ _ => exact (startFrame_spec _ _).surroundings.host
  | advanced _ _ => exact (advance_spec _).surroundings.host

/-- Where the harness offers nothing, a boundary keeps the events of a frame those of its pattern: it loads both, or
keeps both (R25). -/
theorem BoundaryCase.patternInv {s t : State} (hc : BoundaryCase s t) (h : s.PatternInv) : t.PatternInv := by
  refine ⟨hc.host ▸ movesAfter_noHarness h.noHarness _ _, ?_⟩
  rw [hc.cfg]
  cases hc with
  | reset _ => intro hb; cases hb
  | accepted w _ _ _ _ =>
    intro _
    rw [(startFrame_spec _ _).ev, (startFrame_spec _ _).pat]
  | harness evs _ ho _ => exact absurd ho (offer_ne_events h.noHarness evs)
  | advanced _ _ =>
    have spec := advance_spec s.nextInterval
    intro hb
    rw [spec.busy, Bool.and_eq_true] at hb
    rw [spec.ev, spec.pat]
    exact h.frame_ev hb.1

end Sys2Proof.Machine
end

section
/-! One line of a frame (R34): under a valid configuration each line belongs to exactly one event of a pattern. -/

namespace Sys2Proof.Machine

/-- The slots are the one-hot masks' (R68). -/
theorem slotMask_getLsbD : ∀ a b : Fin 3, (slotMask a).getLsbD b = decide (a = b) := by decide

/-- A port and a one-hot mask pick out one line (R68). -/
theorem port_slotMask_eq_line (l : Line) (p : Port) (b : Fin 3) :
    (decide (l.port = p) && (slotMask l.slot).getLsbD b) = decide (l = ⟨p, b⟩) := by
  cases l
  simp only [slotMask_getLsbD, Line.mk.injEq, Bool.decide_and]

/-- An event of a pattern acts on its own line alone (R68, R69). -/
theorem actsOn_clampEvents_expand (c : Config) (pat : Pattern) (j : Fin 6) (p : Port) (b : Fin 3) :
    actsOn ((clampEvents c (expand c pat)).get j) p b = decide (c.wiring.get j = ⟨p, b⟩) := by
  rw [clampEvents, Six_get_ofFn, expand, Six_get_ofFn]
  exact port_slotMask_eq_line (c.wiring.get j) p b

/-- The closed form of one event's line: high exactly while τ is below that event's duration, for the wiring takes no
two events to one line (R8, R34). -/
theorem lineHigh_wiring {c : Config} (hv : configValid c = true) (pat : Pattern) (k : Fin 6) (tau : Nat) :
    lineHigh (clampEvents c (expand c pat)) (c.wiring.get k).port (c.wiring.get k).slot tau
      = decide (tau < ((clampEvents c (expand c pat)).get k).dur) := by
  have injective : Function.Injective c.wiring.get :=
    ((wiringBijective_iff c.wiring).mp (decide_eq_true (configFacts hv).wiring_nodup)).injective
  have acts : ∀ j, actsOn ((clampEvents c (expand c pat)).get j) (c.wiring.get k).port (c.wiring.get k).slot
      = decide (j = k) := fun j => by
    rw [actsOn_clampEvents_expand]; exact decide_eq_decide.mpr injective.eq_iff
  simp only [lineHigh_eq, acts]
  rw [Bool.eq_iff_iff]
  simp [mem_channels, ← imp_iff_not_or]

end Sys2Proof.Machine
end

section
/-! Who writes the lines (R26, R43): a boundary without reset leaves them as some entries of the stream leave them, and
the entries do not read what else a boundary writes. -/

namespace Sys2Proof.Machine

theorem iterate_performEntry_withOthers (m : Nat) (s : State) (b t p d e n r h) :
    Nat.iterate State.performEntry m (s.withOthers b t p d e n r h)
      = (Nat.iterate State.performEntry m s).withOthers b t p d e n r h := by
  induction m generalizing s with
  | zero => rfl
  | succ m ih => rw [Function.iterate_succ_apply, performEntry_withOthers, ih, ← Function.iterate_succ_apply]

/-- The lines of `t` are those of `s` after some of the entries at its index. -/
def State.LinesByEntries (s t : State) : Prop :=
  ∃ m, (Nat.iterate State.performEntry m s).port = t.port

/-- The lines of `t` are those of `s` after some entries of its stream, and then some of the stream of a new frame with
the events of `t`. -/
def State.LinesByNewFrame (s t : State) : Prop :=
  ∃ m n, (Nat.iterate State.performEntry n ((Nat.iterate State.performEntry m s).loadFrame t.ev)).port = t.port

/-- The sequencer does not read `done`. -/
theorem performDue_setDone (s : State) (d : Bool) (limit : Nat) :
    (s.setDone d).performDue limit = (s.performDue limit).setDone d := by
  have same := performDue_same s limit
  have shared := performDue_withOthers s limit s.busy s.t s.pat d s.pre s.now s.resetAt s.host
  refine shared.trans ?_
  rw [← same.busy, ← same.t, ← same.pat, ← same.pre, ← same.now, ← same.resetAt, ← same.host]
  rfl

@[simp] theorem port_setDone (s : State) (d : Bool) : (s.setDone d).port = s.port := rfl

theorem performDue_iterate (s : State) (limit : Nat) :
    ∃ m, s.performDue limit = Nat.iterate State.performEntry m s :=
  performUpTo_iterate limit 19 s

/-- A boundary at which no frame starts moves the lines by entries of the present stream alone. -/
theorem advance_linesByEntries (s : State) : s.LinesByEntries s.advance := by
  cases he : s.ending with
  | true =>
    obtain ⟨m, hm⟩ := performDue_iterate s s.cfg.periodUs
    refine ⟨m, ?_⟩
    rw [advance_ending he, ← hm]; rfl
  | false =>
    cases hb : s.busy with
    | true =>
      have shared := performDue_withOthers s s.nextTick s.busy s.nextTick s.pat false s.pre s.now s.resetAt s.host
      obtain ⟨m, hm⟩ := performDue_iterate s s.nextTick
      refine ⟨m, ?_⟩
      rw [advance_running he hb, ← hm]
      exact (congrArg State.port shared).symm
    | false =>
      refine ⟨0, ?_⟩
      rw [advance_idle hb]; rfl

/-- A frame's start moves the lines by entries of the stream that ends, where one does, and then of the new one. -/
theorem startFrame_linesByNewFrame (s : State) (ev : Six ChannelEvent) : s.LinesByNewFrame (s.startFrame ev) := by
  have load : ∀ (f : State) (d : Bool), ∃ n, (Nat.iterate State.performEntry n (f.loadFrame ev)).port
      = (((f.loadFrame ev).setDone d).performDue 0).port := fun f d => by
    obtain ⟨n, hn⟩ := performDue_iterate (f.loadFrame ev) 0
    exact ⟨n, by rw [performDue_setDone, port_setDone, hn]⟩
  rw [State.LinesByNewFrame, (startFrame_spec s ev).ev]
  cases he : s.ending with
  | true =>
    obtain ⟨m, hm⟩ := performDue_iterate s s.cfg.periodUs
    obtain ⟨n, hn⟩ := load s.finishStream true
    refine ⟨m, n, ?_⟩
    rw [startFrame_ending he, ← hn, State.finishStream, ← hm]
  | false =>
    obtain ⟨n, hn⟩ := load s false
    exact ⟨0, n, by rw [startFrame_idle he, ← hn]; rfl⟩

/-- The host's side of a boundary, and the pattern captured there, do not touch the stream. -/
theorem State.LinesByEntries.of_withOthers {s u : State} {b t p d e n r h}
    (hl : (s.withOthers b t p d e n r h).LinesByEntries u) : s.LinesByEntries u := by
  obtain ⟨m, hm⟩ := hl
  rw [iterate_performEntry_withOthers] at hm
  exact ⟨m, hm⟩

theorem State.LinesByNewFrame.of_withOthers {s u : State} {b t p d e n r h}
    (hl : (s.withOthers b t p d e n r h).LinesByNewFrame u) : s.LinesByNewFrame u := by
  obtain ⟨m, k, hk⟩ := hl
  have shared := iterate_performEntry_withOthers k ((Nat.iterate State.performEntry m s).loadFrame u.ev)
    true 0 p d e n r h
  rw [iterate_performEntry_withOthers] at hk
  exact ⟨m, k, (congrArg State.port shared).symm.trans hk⟩

/-- A boundary without reset moves the lines by the present stream alone, or, where the block is ready and starts a
frame, by the present stream and then the new one (R26, R43). -/
theorem BoundaryCase.lines {s t : State} (hc : BoundaryCase s t) (hrst : s.rst = false) :
    s.LinesByEntries t ∨ s.ready = true ∧ s.LinesByNewFrame t := by
  cases hc with
  | reset h => rw [hrst] at h; cases h
  | accepted w _ _ _ hr => exact .inr ⟨hr, (startFrame_linesByNewFrame _ _).of_withOthers⟩
  | harness evs _ _ hr => exact .inr ⟨hr, (startFrame_linesByNewFrame _ _).of_withOthers⟩
  | advanced _ _ => exact .inl (advance_linesByEntries _).of_withOthers

/-- An idle block that stays idle without reset keeps its lines: no frame starts, and no stream runs. -/
theorem BoundaryCase.idle_lines {s t : State} (hc : BoundaryCase s t) (hrst : s.rst = false) (hs : s.busy = false)
    (ht : t.busy = false) : t.port = s.port := by
  cases hc with
  | reset h => rw [hrst] at h; cases h
  | accepted w _ _ _ _ => rw [(startFrame_spec _ _).busy] at ht; cases ht
  | harness evs _ _ _ => rw [(startFrame_spec _ _).busy] at ht; cases ht
  | advanced _ _ => rw [advance_idle (s := s.nextInterval) hs]; rfl

theorem BoundaryCase.bench {s t : State} (hc : BoundaryCase s t) : t.bench = s.bench := by
  cases hc with
  | reset _ => rfl
  | accepted w _ _ _ _ => exact (startFrame_spec _ _).surroundings.bench
  | harness evs _ _ _ => exact (startFrame_spec _ _).surroundings.bench
  | advanced _ _ => exact (advance_spec _).surroundings.bench

/-- Reset drops every line (R115). -/
theorem BoundaryCase.reset_lines {s t : State} (hc : BoundaryCase s t) (hrst : s.rst = true) :
    t.portA = 0#3 ∧ t.portB = 0#3 := by
  cases hc with
  | reset _ => exact ⟨rfl, rfl⟩
  | accepted w h _ _ _ => rw [hrst] at h; cases h
  | harness evs h _ _ => rw [hrst] at h; cases h
  | advanced h _ => rw [hrst] at h; cases h

end Sys2Proof.Machine
end

section
/-! The obligations on the state of the block (10_state.md): its invariants, `done`, and the lines. -/

open Sys2Proof Sys2Proof.Machine

/-- Settles O38: a block in service takes a tick boundary, and each case of one keeps the invariant. -/
theorem stepKeepsTheInvariant : Obligations.StepKeepsTheInvariant := by
  unfold Obligations.StepKeepsTheInvariant
  intro s t h hstep
  obtain ⟨-, ⟨hbench, -⟩ | ⟨-, hboundary⟩⟩ := step_next_cases hstep
  · rw [onBench_inService h.inService] at hbench; cases hbench
  · exact hboundary.inv h

/-- Settles O32: `done` after each case of a boundary. -/
theorem doneMarksAFrameEnd : Obligations.DoneMarksAFrameEnd := by
  unfold Obligations.DoneMarksAFrameEnd
  intro s hv hb
  obtain ⟨t, hstep, hboundary⟩ := step_boundary_cases hv hb
  refine ⟨t, hstep, ?_⟩
  rw [hboundary.done, Bool.and_eq_true, ending_iff, Bool.not_eq_true', and_assoc]

/-- Settles O39: a bench's step leaves the block idle, and each case of a boundary keeps events and pattern together. -/
theorem stepKeepsThePatternsEvents : Obligations.StepKeepsThePatternsEvents := by
  unfold Obligations.StepKeepsThePatternsEvents
  intro s t h hstep
  obtain ⟨-, ⟨hbench, hnext⟩ | ⟨-, hboundary⟩⟩ := step_next_cases hstep
  · obtain ⟨hbusy, hhost⟩ := benchStep_busy_host hnext
    exact ⟨hhost ▸ h.noHarness, fun hb => by rw [hbusy, onBench_idle hbench] at hb; cases hb⟩
  · exact hboundary.patternInv h

/-- Settles O40: the lines are the closed form, in which each line is its own event's. -/
theorem linesFollowTheDurations : Obligations.LinesFollowTheDurations := by
  unfold Obligations.LinesFollowTheDurations
  intro s h hp
  refine ⟨h.idle_lines, fun hb k => ?_⟩
  rw [State.lineOf, h.frame_ports hb, closedForm_getLsbD, hp.frame_ev hb]
  exact lineHigh_wiring h.valid s.pat k s.t

/-- Settles O47: in each case of a boundary the lines come from reset, from the present stream, or from it and the new
frame's. -/
theorem onlyTheStreamWritesTheLines : Obligations.OnlyTheStreamWritesTheLines := by
  unfold Obligations.OnlyTheStreamWritesTheLines
  intro s hv hb
  obtain ⟨t, hstep, hboundary⟩ := step_boundary_cases hv hb
  refine ⟨t, hstep, hboundary.bench, hboundary.reset_lines, fun hrst => ?_, fun hrst hready => ?_,
    hboundary.idle_lines⟩
  · rcases hboundary.lines hrst with ⟨m, present⟩ | ⟨-, m, n, new⟩
    · exact ⟨m, 0, .inl present⟩
    · exact ⟨m, n, .inr new⟩
  · rcases hboundary.lines hrst with present | ⟨hr, -⟩
    · exact present
    · rw [hready] at hr; cases hr
end

section
/-! The host's moves inside a frame (R47, R88): where the block is not ready a step resets it or takes its frame one tick
on, and reads no move of the host for it. -/

namespace Sys2Proof.Machine

/-- A block that is not ready is inside a frame, short of its last interval (R87). -/
theorem inFrame_of_not_ready {s : State} (h : s.ready = false) : s.busy = true ∧ s.ending = false := by
  have notReady := mt (ready_iff s).mpr (by simp [h])
  simpa using notReady

/-- Where the block is not ready only reset decides what a boundary does: no offer is accepted (R88). -/
theorem BoundaryCase.eq_of_not_ready {s t : State} (hc : BoundaryCase s t) (hr : s.ready = false) :
    t = if s.rst then s.nextInterval.takeReset else s.nextInterval.advance := by
  cases hc with
  | reset h => rw [if_pos h]
  | accepted w _ _ _ h => rw [hr] at h; cases h
  | harness evs _ _ h => rw [hr] at h; cases h
  | advanced h _ => rw [if_neg (by simp [h])]

theorem step_not_ready {s : State} (hv : configValid s.cfg = true) (hr : s.ready = false) :
    step s = .next (if s.rst then s.nextInterval.takeReset else s.nextInterval.advance) := by
  obtain ⟨t, hstep, hboundary⟩ := step_boundary_cases hv (onBench_busy (inFrame_of_not_ready hr).1)
  rw [hstep, hboundary.eq_of_not_ready hr]

/-- The state with other moves of the host. -/
def State.withHost (s : State) (host : List HostMove) : State := { s with host := host }

/-- The sequencer does not read the host's moves. -/
theorem performDue_withHost (s : State) (limit : Nat) (host : List HostMove) :
    (s.withHost host).performDue limit = (s.performDue limit).withHost host := by
  have same := performDue_same s limit
  have shared := performDue_withOthers s limit s.busy s.t s.pat s.done s.pre s.now s.resetAt host
  refine shared.trans ?_
  rw [← same.busy, ← same.t, ← same.pat, ← same.done, ← same.pre, ← same.now, ← same.resetAt]
  rfl

/-- A frame goes on by one tick whatever the host's moves are (R88). -/
theorem advance_withHost {s : State} (hr : s.ready = false) (host : List HostMove) :
    (s.withHost host).advance = s.advance.withHost host := by
  obtain ⟨hb, he⟩ := inFrame_of_not_ready hr
  rw [advance_running (s := s.withHost host) he hb, advance_running he hb]
  exact performDue_withHost { s with t := s.nextTick, done := false } s.nextTick host

end Sys2Proof.Machine
end

section
/-! The obligation on what a running frame reads of the host (20_memory.md). -/

open Sys2Proof Sys2Proof.Machine

/-- Settles O42: the block not ready, both states are reset or both go on by one tick, and neither reads a move. -/
theorem runningFrameIgnoresOffers : Obligations.RunningFrameIgnoresOffers := by
  unfold Obligations.RunningFrameIgnoresOffers
  intro s other h hr
  refine ⟨_, _, step_not_ready h.valid hr, step_not_ready (s := s.withHost other) h.valid hr, ?_⟩
  have sameReset : (s.withHost other).rst = s.rst := rfl
  have sameTick : (s.withHost other).nextInterval.advance
      = s.nextInterval.advance.withHost (s.withHost other).nextInterval.host :=
    advance_withHost (s := s.nextInterval) hr _
  rw [sameReset, sameTick]
  cases s.rst <;> rfl
end

section
/-! The words of the two formats (R50 to R57): which micro-operation a word of a row is, that the row of the opcode map
fixes every bit but the operands', and the words no row admits. -/

namespace Sys2Proof.Machine

open Sys2Proof.Laws

/-- A field the mask of a row covers holds what the row's match says (R54). -/
theorem extractLsb'_of_masked {w start len : Nat} {x mask mtch : BitVec w} (h : x &&& mask = mtch)
    (covered : mask.extractLsb' start len = BitVec.allOnes len) :
    x.extractLsb' start len = mtch.extractLsb' start len := by
  rw [← h, BitVec.extractLsb'_and, covered, BitVec.and_allOnes]

/-! ## The host's command -/

/-- A word with RENDER_FRAME's OP is RENDER_FRAME of its bits 5:0 (R56). -/
theorem decode_render_word (rsv pat : BitVec 6) : decode (.cmd (0b0001#4 ++ rsv ++ pat)) = .ok (.renderFrame pat) := by
  have hrow : (0b0001#4 ++ rsv ++ pat : CmdWord) &&& 0xF000#16 = 0x1000#16 := by
    rw [show 0xF000#16 = 0xF#4 ++ 0#6 ++ 0#6 from rfl, BitVec.and_append, BitVec.and_append, BitVec.and_zero,
      BitVec.and_zero]
    rfl
  have operand : patternField (0b0001#4 ++ rsv ++ pat) = pat := BitVec.extractLsb'_append_eq_right ..
  rw [decode_cmd_render hrow, operand]

/-- A word with any other OP is a reserved command (R55). -/
theorem decode_reserved_word {w : CmdWord} (h : w.extractLsb' 12 4 ≠ 0b0001#4) :
    decode (.cmd w) = .error (.reservedCommand w) :=
  decode_cmd_error fun hrow => h (extractLsb'_of_masked hrow rfl)

/-! ## The micro-operations -/

/-- A word lies in the row of a micro-operation, whose operands are the word's fields (R51, R52, R54). -/
inductive UopRow (u : UopWord) : Instr → Prop where
  | pset (h : u &&& 0xFEFFFFF8#32 = 0x10000000#32) : UopRow u (.pset (portField u) (maskField u))
  | pclr (h : u &&& 0xFEFFFFF8#32 = 0x20000000#32) : UopRow u (.pclr (portField u) (maskField u))
  | pread (h : u &&& 0xFEFFFFF8#32 = 0x30000000#32) : UopRow u (.pread (portField u) (maskField u))
  | wait (h : u &&& 0xFFFF0000#32 = 0x40000000#32) : UopRow u (.wait (waitField u))

/-- What a port form's mask and match say of the fixed fields: OP, and the must-be-0 bits (R51, R54). -/
theorem portFields_of_masked {u : UopWord} {op : BitVec 4} (h : u &&& 0xFEFFFFF8#32 = op ++ 0#28) :
    u.extractLsb' 28 4 = op ∧ u.extractLsb' 25 3 = 0#3 ∧ u.extractLsb' 3 21 = 0#21 := by
  refine ⟨?_, ?_, ?_⟩
  · rw [extractLsb'_of_masked h rfl, BitVec.extractLsb'_append_eq_left]
  · rw [extractLsb'_of_masked h rfl, BitVec.extractLsb'_append_eq_of_add_le (by decide), BitVec.extractLsb'_zero]
  · rw [extractLsb'_of_masked h rfl, BitVec.extractLsb'_append_eq_of_add_le (by decide), BitVec.extractLsb'_zero]

/-- What WAIT's mask and match say of the fixed fields (R52, R54). -/
theorem waitFields_of_masked {u : UopWord} (h : u &&& 0xFFFF0000#32 = 0x40000000#32) :
    u.extractLsb' 28 4 = 4#4 ∧ u.extractLsb' 16 12 = 0#12 :=
  ⟨extractLsb'_of_masked h rfl, extractLsb'_of_masked h rfl⟩

/-- The rows are told apart by OP: a word of WAIT's row lies in no row of a port form. -/
theorem portMasked_ne_of_waitRow {u mtch : UopWord} (h : u &&& 0xFFFF0000#32 = 0x40000000#32)
    (hop : mtch.extractLsb' 28 4 ≠ 4#4) : u &&& 0xFEFFFFF8#32 ≠ mtch := by
  intro port
  obtain ⟨op, -⟩ := waitFields_of_masked h
  exact hop ((extractLsb'_of_masked port rfl).symm.trans op)

/-- A micro-operation word decodes to the instruction whose row it lies in (R54). -/
theorem decode_uop_iff_row {u : UopWord} {i : Instr} : decode (.uop u) = .ok i ↔ UopRow u i := by
  constructor
  · intro h
    simp only [decode, decodeUop] at h
    split_ifs at h with hpset hpclr hpread hwait <;> cases h
    · exact .pset hpset
    · exact .pclr hpclr
    · exact .pread hpread
    · exact .wait hwait
  · rintro (h | h | h | h)
    · simp [decode, decodeUop, h]
    · simp [decode, decodeUop, h]
    · simp [decode, decodeUop, h]
    · simp only [decode, decodeUop, if_pos h]
      rw [if_neg (portMasked_ne_of_waitRow h (by decide)), if_neg (portMasked_ne_of_waitRow h (by decide)),
        if_neg (portMasked_ne_of_waitRow h (by decide))]

/-! ### The operands of an encoded word (R53) -/

@[simp] theorem portField_encodePortForm (op : BitVec 4) (p : Port) (m : Slice) :
    portField (encodePortForm op p m) = p := by
  have bit : (encodePortForm op p m).getLsbD 24 = (portBit p).getLsbD 0 := by
    simp only [encodePortForm, BitVec.getLsbD_append]; rfl
  rw [portField, bit]
  cases p <;> rfl

@[simp] theorem maskField_encodePortForm (op : BitVec 4) (p : Port) (m : Slice) :
    maskField (encodePortForm op p m) = m :=
  BitVec.extractLsb'_append_eq_right ..

/-- WAIT's word holds its operand where the operand fits the field (R52). -/
theorem waitField_encode {n : Nat} (h : n ≤ 65535) : waitField (0x4#4 ++ 0#12 ++ BitVec.ofNat 16 n) = n := by
  rw [waitField, BitVec.extractLsb'_append_eq_right, BitVec.toNat_ofNat, Nat.mod_eq_of_lt (by omega)]

/-- The field P holds the bit that stands for its port (R51). -/
theorem portBit_portField (u : UopWord) : portBit (portField u) = u.extractLsb' 24 1 := by
  have field : u.extractLsb' 24 1 = BitVec.ofBool ((u.extractLsb' 24 1).getLsbD 0) := by
    rw [← BitVec.setWidth_one, BitVec.setWidth_eq]
  rw [field, BitVec.getLsbD_extractLsb', portField]
  cases u.getLsbD 24 <;> rfl

theorem waitField_wellFormed (u : UopWord) : (Instr.wait (waitField u)).wellFormed = true :=
  decide_eq_true (Nat.le_of_lt_succ (u.extractLsb' 0 16).isLt)

/-! ### A word put together from its fields -/

/-- A port-form word whose must-be-0 bits are zero is the word of its OP, port and mask (R51). -/
theorem encodePortForm_of_fields {u : UopWord} {op : BitVec 4}
    (h : u.extractLsb' 28 4 = op ∧ u.extractLsb' 25 3 = 0#3 ∧ u.extractLsb' 3 21 = 0#21) :
    encodePortForm op (portField u) (maskField u) = u := by
  obtain ⟨hop, hhigh, hlow⟩ := h
  rw [encodePortForm, portBit_portField, ← hop, ← hhigh, ← hlow, maskField,
    BitVec.extractLsb'_append_extractLsb'_eq_extractLsb' (by decide : 28 = 25 + 3),
    BitVec.extractLsb'_append_extractLsb'_eq_extractLsb' (by decide : 25 = 24 + 1),
    BitVec.extractLsb'_append_extractLsb'_eq_extractLsb' (by decide : 24 = 3 + 21),
    BitVec.extractLsb'_append_extractLsb'_eq_extractLsb' (by decide : 3 = 0 + 3)]
  exact BitVec.extractLsb'_eq_self

/-- A WAIT word whose must-be-0 bits are zero is the word of its operand (R52). -/
theorem waitWord_of_fields {u : UopWord} (h : u.extractLsb' 28 4 = 4#4 ∧ u.extractLsb' 16 12 = 0#12) :
    0x4#4 ++ 0#12 ++ BitVec.ofNat 16 (waitField u) = u := by
  obtain ⟨hop, hzero⟩ := h
  rw [← hop, ← hzero, waitField, BitVec.ofNat_toNat, BitVec.setWidth_eq,
    BitVec.extractLsb'_append_extractLsb'_eq_extractLsb' (by decide : 28 = 16 + 12),
    BitVec.extractLsb'_append_extractLsb'_eq_extractLsb' (by decide : 16 = 0 + 16)]
  exact BitVec.extractLsb'_eq_self

/-! ### Encoding and decoding agree -/

/-- A word that lies in a row is the word of what it stands for: no bit is ignored (R51, R52). -/
theorem UopRow.encode_eq {u : UopWord} {i : Instr} (h : UopRow u i) : i.wellFormed = true ∧ encode i = .uop u := by
  rcases h with h | h | h | h
  · exact ⟨rfl, congrArg BusWord.uop (encodePortForm_of_fields (portFields_of_masked (op := 0x1#4) h))⟩
  · exact ⟨rfl, congrArg BusWord.uop (encodePortForm_of_fields (portFields_of_masked (op := 0x2#4) h))⟩
  · exact ⟨rfl, congrArg BusWord.uop (encodePortForm_of_fields (portFields_of_masked (op := 0x3#4) h))⟩
  · exact ⟨waitField_wellFormed u, congrArg BusWord.uop (waitWord_of_fields (waitFields_of_masked h))⟩

/-- The word of a well-formed micro-operation lies in its row, with its operands in the fields (R51 to R54). -/
theorem uopRow_of_encode {u : UopWord} {i : Instr} (hw : i.wellFormed = true) (he : encode i = .uop u) :
    UopRow u i := by
  cases i with
  | renderFrame pat => cases he
  | pset p m =>
    obtain rfl := BusWord.uop.inj he
    simpa using UopRow.pset (TableRow.pset p m).2
  | pclr p m =>
    obtain rfl := BusWord.uop.inj he
    simpa using UopRow.pclr (TableRow.pclr p m).2
  | pread p m =>
    obtain rfl := BusWord.uop.inj he
    simpa using UopRow.pread (TableRow.pread p m).2
  | wait n =>
    obtain rfl := BusWord.uop.inj he
    have row := UopRow.wait (TableRow.wait n).2
    rwa [waitField_encode (of_decide_eq_true hw)] at row

/-- A micro-operation word decodes to exactly the well-formed instruction it encodes (R51 to R54). -/
theorem decode_uop_iff_encode {u : UopWord} {i : Instr} :
    decode (.uop u) = .ok i ↔ i.wellFormed = true ∧ encode i = .uop u :=
  decode_uop_iff_row.trans ⟨UopRow.encode_eq, fun ⟨hw, he⟩ => uopRow_of_encode hw he⟩

/-! ### Reserved words (R57) -/

/-- A row's match and mask make the fields legal. -/
theorem UopRow.fieldsLegal {u : UopWord} {i : Instr} (h : UopRow u i) : UopFieldsLegal u := by
  rcases h with h | h | h | h
  · obtain ⟨hop, hzero⟩ := portFields_of_masked (op := 0x1#4) h
    exact .inl ⟨.inl hop, hzero⟩
  · obtain ⟨hop, hzero⟩ := portFields_of_masked (op := 0x2#4) h
    exact .inl ⟨.inr (.inl hop), hzero⟩
  · obtain ⟨hop, hzero⟩ := portFields_of_masked (op := 0x3#4) h
    exact .inl ⟨.inr (.inr hop), hzero⟩
  · exact .inr (waitFields_of_masked h)

/-- Every micro-operation's word is legal, even of a WAIT whose operand does not fit its field. -/
theorem fieldsLegal_of_encode {u : UopWord} {i : Instr} (h : encode i = .uop u) : UopFieldsLegal u := by
  cases i with
  | renderFrame pat => cases h
  | pset | pclr | pread => exact (uopRow_of_encode rfl h).fieldsLegal
  | wait n =>
    obtain rfl := BusWord.uop.inj h
    exact (UopRow.wait (TableRow.wait n).2).fieldsLegal

/-- A word with legal fields is the word of a well-formed instruction. -/
theorem exists_encode_of_fieldsLegal {u : UopWord} (h : UopFieldsLegal u) :
    ∃ i, i.wellFormed = true ∧ encode i = .uop u := by
  obtain ⟨hop | hop | hop, hzero⟩ | hwait := h
  · exact ⟨.pset _ _, rfl, congrArg BusWord.uop (encodePortForm_of_fields ⟨hop, hzero⟩)⟩
  · exact ⟨.pclr _ _, rfl, congrArg BusWord.uop (encodePortForm_of_fields ⟨hop, hzero⟩)⟩
  · exact ⟨.pread _ _, rfl, congrArg BusWord.uop (encodePortForm_of_fields ⟨hop, hzero⟩)⟩
  · exact ⟨.wait _, waitField_wellFormed u, congrArg BusWord.uop (waitWord_of_fields hwait)⟩

/-- A micro-operation word decodes exactly where its fields are legal (R57). -/
theorem decodes_iff_fieldsLegal (u : UopWord) : (∃ i, decode (.uop u) = .ok i) ↔ UopFieldsLegal u := by
  simp only [decode_uop_iff_encode]
  exact ⟨fun ⟨_, _, he⟩ => fieldsLegal_of_encode he, exists_encode_of_fieldsLegal⟩

/-- A test bench's word that decodes to no instruction is refused by name (R57). -/
theorem runMicroOp_reserved {u : UopWord} (h : ¬ ∃ i, decode (.uop u) = .ok i) (s : State) :
    runMicroOp u s = .refused (.reservedMicroOp u) := by
  unfold runMicroOp
  split
  next i hi => exact absurd ⟨i, hi⟩ h
  next => rfl

theorem onBench_of_word {s : State} {u : UopWord} {rest : List UopWord} (h : s.bench = some (u :: rest))
    (hb : s.busy = false) : s.onBench = true := by
  rw [State.onBench, h, hb]; rfl

/-- What the sequencer emits is a micro-operation: it has a word on the frame stream's channel (R49, R57). -/
theorem encode_nextUop {s : State} {i : Instr} (h : s.nextUop = some i) : ∃ u, encode i = .uop u := by
  rcases nextUop_kind h with ⟨p, m, rfl⟩ | ⟨p, m, rfl⟩ | ⟨n, rfl⟩ <;> exact ⟨_, rfl⟩

end Sys2Proof.Machine
end

section
/-! A reserved command at a boundary (R55). -/

namespace Sys2Proof.Machine

theorem cmdReady_iff (s : State) : s.cmdReady = true ↔ s.rst = false ∧ s.ready = true := by
  simp [State.cmdReady]

theorem accepts_of_word {s : State} {w : CmdWord} (ho : s.offer = .word w) (hr : s.cmdReady = true) :
    s.accepts = true := by
  simp [State.accepts, ho, hr]

theorem acceptedCommand_of_word {s : State} {w : CmdWord} (ho : s.offer = .word w) (hr : s.cmdReady = true) :
    s.acceptedCommand = some w := by
  simp [State.acceptedCommand, ho, accepts_of_word ho hr]

/-- Where the block is ready, a boundary without a frame start leaves it idle (R55, R91). -/
theorem advance_ready {s : State} (hr : s.ready = true) :
    s.advance.busy = false ∧ s.advance.t = if s.ending then 0 else s.t := by
  rw [(advance_spec s).busy, (advance_spec s).tick]
  rcases (ready_iff s).mp hr with idle | ending
  · simp [idle]
  · simp [ending]

/-- A step without reset at which a reserved command is offered starts no frame (R55). -/
theorem step_reservedCommand {s : State} {w : CmdWord} (hv : configValid s.cfg = true) (hb : s.onBench = false)
    (hrst : s.rst = false) (ho : s.offer = .word w) (hw : w.extractLsb' 12 4 ≠ 0b0001#4) :
    step s = .next s.nextInterval.advance := by
  rw [step_boundary hv hb, hrst, ho]
  simp only [react, Bool.false_eq_true, if_false, offerWord, decode_reserved_word hw]

end Sys2Proof.Machine
end

section
/-! The obligations on the encoding (30_encoding.md). -/

open Sys2Proof Sys2Proof.Machine

/-- Settles O1: a host word whatever its bits 11:6 hold, and a micro-operation word by the row it lies in. -/
theorem decodeOfEncodeIsIdentity : Obligations.DecodeOfEncodeIsIdentity := by
  unfold Obligations.DecodeOfEncodeIsIdentity
  intro i hw
  cases i with
  | renderFrame pat => exact decode_render_word 0#6 pat
  | pset | pclr | pread | wait => exact decode_uop_iff_encode.mpr ⟨hw, rfl⟩

/-- Settles O2: the row and the operands' fields make up the whole word. -/
theorem microOpWordIsItsEncoding : Obligations.MicroOpWordIsItsEncoding := by
  unfold Obligations.MicroOpWordIsItsEncoding
  exact fun u i h => decode_uop_iff_encode.mp h

/-- Settles O4: the legal words are the words of the well-formed micro-operations. -/
theorem reservedMicroOpsAreRefused : Obligations.ReservedMicroOpsAreRefused := by
  unfold Obligations.ReservedMicroOpsAreRefused
  refine ⟨decodes_iff_fieldsLegal, fun s u rest hv hbench hb hlegal => ?_, fun s i h => ?_⟩
  · rw [step_bench hv (onBench_of_word hbench hb), benchStep_word hbench]
    exact runMicroOp_reserved (mt (decodes_iff_fieldsLegal u).mp hlegal) _
  · obtain ⟨u, he⟩ := encode_nextUop h
    exact ⟨u, he, fieldsLegal_of_encode he, fun hw => decode_uop_iff_encode.mpr ⟨hw, he⟩⟩

/-- Settles O31: the boundary is one without a frame start, at which the host's move is over. -/
theorem reservedCommandIsConsumed : Obligations.ReservedCommandIsConsumed := by
  unfold Obligations.ReservedCommandIsConsumed
  intro s w hv hb ho hw hr
  obtain ⟨hrst, hready⟩ := (cmdReady_iff s).mp hr
  obtain ⟨idle, tick⟩ := advance_ready (s := s.nextInterval) hready
  have adv := advance_spec s.nextInterval
  refine ⟨acceptedCommand_of_word ho hr, _, step_reservedCommand hv hb hrst ho hw, idle, adv.pat, adv.ev, adv.done,
    tick, ?_⟩
  rw [adv.surroundings.host, nextInterval_host, accepts_of_word ho hr]

/-- Settles O3: neither the row nor the pattern's field holds a bit of 11:6. -/
theorem renderFrameIgnoresReservedBits : Obligations.RenderFrameIgnoresReservedBits := by
  unfold Obligations.RenderFrameIgnoresReservedBits
  exact decode_render_word

/-- Settles O5, by assembling the eleven lines of R62. -/
theorem workedWordsAssemble : Obligations.WorkedWordsAssemble := by
  unfold Obligations.WorkedWordsAssemble
  decide

/-- Settles O6, by decoding the eight words. -/
theorem workedWordsDecode : Obligations.WorkedWordsDecode := by
  unfold Obligations.WorkedWordsDecode
  decide
end

section
/-! The angle-to-pulse conversion (R63, R64, R66): the clamp keeps the order of angles, and a pulse rises with the
clamped angle from one end point to the other. -/

namespace Sys2Proof.Machine

theorem clampAngle_le (c : Config) (a : Int) : clampAngle c a ≤ c.angleMax := by
  unfold clampAngle; split_ifs <;> omega

/-- An angle in range is its own clamp (R63). -/
theorem clampAngle_of_le {c : Config} {n : Nat} (h : n ≤ c.angleMax) : clampAngle c n = n := by
  unfold clampAngle; split_ifs <;> omega

theorem clampAngle_mono (c : Config) {a b : Int} (h : a ≤ b) : clampAngle c a ≤ clampAngle c b := by
  unfold clampAngle; split_ifs <;> omega

/-- The pulse depends on the clamped angle alone, and keeps its order (R64). -/
theorem pulseUs_le_of_clampAngle_le {c : Config} {a b : Int} (h : clampAngle c a ≤ clampAngle c b) :
    pulseUs c a ≤ pulseUs c b :=
  Nat.add_le_add_left (Nat.div_le_div_right (Nat.mul_le_mul_left _ h)) _

theorem pulseUs_clampAngle (c : Config) (a : Int) : pulseUs c (clampAngle c a) = pulseUs c a := by
  unfold pulseUs; rw [clampAngle_of_le (clampAngle_le c a)]

/-- The low end point (R66). -/
theorem pulseUs_zero (c : Config) : pulseUs c 0 = c.servoMinUs := by
  have clamped : clampAngle c 0 = 0 := clampAngle_of_le (Nat.zero_le _)
  rw [pulseUs, clamped, Nat.mul_zero, Nat.zero_div, Nat.add_zero]

/-- The high end point: the division by `ANGLE_MAX` is exact there (R66). -/
theorem pulseUs_angleMax {c : Config} (h : ConfigFacts c) : pulseUs c c.angleMax = c.servoMaxUs := by
  rw [pulseUs, clampAngle_of_le le_rfl, Nat.mul_div_cancel _ h.angle_pos, Nat.add_sub_cancel' h.min_le_max]

theorem servoMin_le_pulseUs (c : Config) (a : Int) : c.servoMinUs ≤ pulseUs c a := Nat.le_add_right _ _

theorem pulseUs_le_servoMax {c : Config} (h : ConfigFacts c) (a : Int) : pulseUs c a ≤ c.servoMaxUs := by
  rw [← pulseUs_angleMax h]
  refine pulseUs_le_of_clampAngle_le ?_
  rw [clampAngle_of_le le_rfl]
  exact clampAngle_le c a

end Sys2Proof.Machine
end

section
/-! The events of a pattern and the lines they drive (R68 to R70). -/

namespace Sys2Proof.Machine

@[simp] theorem expand_get (c : Config) (pat : Pattern) (k : Fin 6) : (expand c pat).get k = channelEvent c pat k :=
  Six_get_ofFn _ k

theorem slotMask_ne_zero : ∀ b : Fin 3, slotMask b ≠ 0#3 := by decide

theorem slotMask_injective : Function.Injective slotMask := by
  unfold Function.Injective; decide

/-- The wiring of a valid configuration takes the six pattern bits one to one onto the six lines (R8). -/
theorem wiring_bijective {c : Config} (h : configValid c = true) : Function.Bijective c.wiring.get :=
  (wiringBijective_iff c.wiring).mp (decide_eq_true (configFacts h).wiring_nodup)

/-- Two events with the same port and mask drive the same line (R68). -/
theorem wiring_eq_of_channelEvent_eq {c : Config} {pat : Pattern} {j k : Fin 6}
    (port : (channelEvent c pat j).port = (channelEvent c pat k).port)
    (mask : (channelEvent c pat j).mask = (channelEvent c pat k).mask) : c.wiring.get j = c.wiring.get k := by
  have slot : (c.wiring.get j).slot = (c.wiring.get k).slot := slotMask_injective mask
  exact congrArg₂ Line.mk port slot

/-- A wiring that is onto the lines lists every line. -/
theorem mem_toList_of_surjective {w : Six Line} (h : Function.Surjective w.get) (l : Line) : l ∈ w.toList := by
  obtain ⟨k, rfl⟩ := h l
  exact Six_get_mem w k

/-- A bijective wiring lists the lines of the default one in some order: each of the six lines once (R68). -/
theorem toList_perm_referenceWiring {w : Six Line} (h : Function.Bijective w.get) :
    w.toList.Perm Config.referenceWiring.toList := by
  have nodup : w.toList.Nodup := List.nodup_ofFn.mpr h.injective
  exact (List.perm_ext_iff_of_nodup nodup (by decide)).mpr fun l =>
    iff_of_true (mem_toList_of_surjective h.surjective l)
      (mem_toList_of_surjective referenceWiring_bijective.surjective l)

/-- Three channels drive each port, for three lines belong to it (R70). -/
theorem length_channels_on_port {w : Six Line} (h : Function.Bijective w.get) (p : Port) :
    (channels.filter (fun k => decide ((w.get k).port = p))).length = 3 := by
  have listed : w.toList = channels.map w.get := rfl
  calc (channels.filter (fun k => decide ((w.get k).port = p))).length
      = w.toList.countP (fun l => decide (l.port = p)) := by
        rw [listed, List.countP_map, List.countP_eq_length_filter]; rfl
    _ = Config.referenceWiring.toList.countP (fun l => decide (l.port = p)) :=
        (toList_perm_referenceWiring h).countP_eq _
    _ = 3 := by cases p <;> decide

/-- A channel's duration is the pulse of `ANGLE_ON` or of `ANGLE_OFF`, as its dot is (R67, R69). -/
theorem channelEvent_dur (c : Config) (pat : Pattern) (k : Fin 6) :
    (channelEvent c pat k).dur = if pat.getLsbD k then pulseUs c c.angleOn else pulseUs c c.angleOff :=
  apply_ite (pulseUs c) _ _ _

end Sys2Proof.Machine
end

section
/-! The obligations on the pulse-timing engine (40_pulse_conversion.md). -/

open Sys2Proof Sys2Proof.Machine

/-- Settles O7: every pulse lies between those of the clamped ends, and both the clamp and the pulse keep the order. -/
theorem pulseIsMonotonicAndBounded : Obligations.PulseIsMonotonicAndBounded := by
  unfold Obligations.PulseIsMonotonicAndBounded
  intro c hv
  have facts := configFacts hv
  exact ⟨fun a => ⟨servoMin_le_pulseUs c a, pulseUs_le_servoMax facts a, (pulseUs_clampAngle c a).symm⟩,
    fun a b hab => pulseUs_le_of_clampAngle_le (clampAngle_mono c hab), pulseUs_zero c, pulseUs_angleMax facts⟩

/-- Settles O8: port and mask name an event's line, and the wiring is a bijection onto the lines. -/
theorem expandCoversTheSixLines : Obligations.ExpandCoversTheSixLines := by
  unfold Obligations.ExpandCoversTheSixLines
  intro c pat hv
  have wiring := wiring_bijective hv
  simp only [expand_get]
  refine ⟨fun k => ⟨slotMask_ne_zero _, _, rfl⟩, fun j k hjk same => ?_, fun p b => ?_,
    length_channels_on_port wiring⟩
  · obtain ⟨port, mask⟩ := Prod.mk.inj same
    exact hjk (wiring.injective (wiring_eq_of_channelEvent_eq port mask))
  · obtain ⟨k, hk⟩ := wiring.surjective ⟨p, b⟩
    exact ⟨k, congrArg Line.port hk, congrArg (fun l : Line => slotMask l.slot) hk⟩

/-- Settles O9: `ANGLE_ON` is 90 of 180 degrees, so half of the span above 600, and `ANGLE_OFF` is 0. -/
theorem referenceDurations : Obligations.ReferenceDurations := by
  unfold Obligations.ReferenceDurations
  intro pat k
  have up : pulseUs Config.reference Config.reference.angleOn = 1500 := by decide
  have down : pulseUs Config.reference Config.reference.angleOff = 600 := pulseUs_zero _
  rw [expand_get, channelEvent_dur, up, down]
end

section
/-! The host's command at a boundary (R72, R87): the word of a RENDER_FRAME, read by its OP, and the step that runs it. -/

namespace Sys2Proof.Machine

/-- A word with RENDER_FRAME's OP decodes to it, with the pattern of its bits 5:0 (R53, R54). -/
theorem decode_render_of_op {w : CmdWord} (h : w.extractLsb' 12 4 = 0b0001#4) :
    decode (.cmd w) = .ok (.renderFrame (w.extractLsb' 0 6)) := by
  have fields : 0b0001#4 ++ w.extractLsb' 6 6 ++ w.extractLsb' 0 6 = w := by
    rw [← h, BitVec.extractLsb'_append_extractLsb'_eq_extractLsb' (by decide : 12 = 6 + 6),
      BitVec.extractLsb'_append_extractLsb'_eq_extractLsb' (by decide : 6 = 0 + 6)]
    exact BitVec.extractLsb'_eq_self
  have decoded := decode_render_word (w.extractLsb' 6 6) (w.extractLsb' 0 6)
  rwa [fields] at decoded

/-- RENDER_FRAME's row is its OP alone (R54, R56). -/
theorem renderRow_iff_op (w : CmdWord) : w &&& 0xF000#16 = 0x1000#16 ↔ w.extractLsb' 12 4 = 0b0001#4 :=
  ⟨fun h => extractLsb'_of_masked h rfl, fun h => (decode_cmd_ok (decode_render_of_op h)).1⟩

/-- Where no reset is sampled, a block in service runs the command it is offered (R72). -/
theorem step_offeredCommand {s : State} {w : CmdWord} {i : Instr} (hv : configValid s.cfg = true)
    (hb : s.onBench = false) (hrst : s.rst = false) (ho : s.offer = .word w) (hi : decode (.cmd w) = .ok i) :
    step s = exec i s.nextInterval := by
  rw [step_boundary hv hb, hrst, ho]
  simp only [react, Bool.false_eq_true, if_false, offerWord, hi]

end Sys2Proof.Machine
end

section
/-! The offer at a boundary (R31, R90, R109): what the host's first move offers, and what is left of it after. -/

namespace Sys2Proof.Machine

theorem movesAfter_offer {now start : Nat} (due : start ≤ now) (accepted : Bool) (w : CmdWord) (rest : List HostMove) :
    movesAfter now accepted (⟨start, .offer w⟩ :: rest) = if accepted then rest else ⟨start, .offer w⟩ :: rest := by
  simp [movesAfter, due]

theorem movesAfter_offerUntil {now start : Nat} (due : start ≤ now) (accepted : Bool) (last : Nat) (w : CmdWord)
    (rest : List HostMove) : movesAfter now accepted (⟨start, .offerUntil last w⟩ :: rest)
      = if accepted then rest else if last ≤ now then ⟨0, .pause⟩ :: rest else ⟨start, .offerUntil last w⟩ :: rest := by
  simp [movesAfter, due]

/-- A first move that is due is what the host offers (R61). -/
theorem offer_of_due {s : State} {m : HostMove} {rest : List HostMove} {w : CmdWord} (hhost : s.host = m :: rest)
    (due : m.start ≤ s.now) (hm : m.act = .offer w ∨ ∃ last, m.act = .offerUntil last w) : s.offer = .word w := by
  rw [State.offer, hhost]
  rcases hm with hm | ⟨last, hm⟩ <;> simp [HostMove.offer, due, hm]

/-- A command on offer is accepted exactly where `cmd_ready` is 1 (R31, R90). -/
theorem accepts_eq_cmdReady {s : State} {w : CmdWord} (ho : s.offer = .word w) : s.accepts = s.cmdReady := by
  simp [State.accepts, ho]

theorem acceptedCommand_eq {s : State} {w : CmdWord} (ho : s.offer = .word w) :
    s.acceptedCommand = if s.cmdReady then some w else none := by
  simp only [State.acceptedCommand, ho, accepts_eq_cmdReady ho]

/-- The host's side of any step of the block in service, or in a frame. -/
theorem step_host {s : State} (hv : configValid s.cfg = true) (hb : s.onBench = false) :
    ∃ t, step s = .next t ∧ t.host = movesAfter s.now s.accepts s.host := by
  obtain ⟨t, hstep, hboundary⟩ := step_boundary_cases hv hb
  exact ⟨t, hstep, hboundary.host⟩

end Sys2Proof.Machine
end

section
/-! `step` and R87's `Next`: a state that meets the invariant shows the lines R87 assigns, so the two are compared on the
fields other than the lines. -/

namespace Sys2Proof.Machine

/-- Under the invariant the lines are R87's last assignment: the closed form in a frame, else all low. So a state that
agrees with `b` on the other fields agrees with it altogether. -/
theorem State.Inv.block_eq_withPorts {s : State} (h : s.Inv) {b : BlockState} (busy : s.busy = b.busy)
    (tick : s.t = b.t) (pat : s.pat = b.pat) (ev : s.ev = b.ev) (done : s.done = b.done) : s.block = b.withPorts := by
  obtain ⟨bbusy, bt, bpat, bev, bA, bB, bdone⟩ := b
  dsimp only at busy tick pat ev done
  subst busy tick pat ev done
  cases hb : s.busy with
  | true =>
    have hA : s.portA = _ := h.frame_ports hb .A
    have hB : s.portB = _ := h.frame_ports hb .B
    simp [State.block, BlockState.withPorts, hb, hA, hB]
  | false =>
    obtain ⟨hA, hB⟩ := h.idle_lines hb
    simp [State.block, BlockState.withPorts, hb, hA, hB]

/-- R87's `accept` together with RENDER_FRAME's OP: a frame starts. -/
def BlockState.starts (c : Config) (b : BlockState) (i : Inputs) : Bool :=
  (i.cmdValid && (!b.busy || b.t + 1 == c.periodUs)) && i.cmdData.extractLsb' 12 4 == 0b0001#4

theorem BlockState.next_reset (u : Six ChannelEvent) (c : Config) (b : BlockState) {i : Inputs} (h : i.rst = true) :
    BlockState.next u c b i = BlockState.reset u := by
  simp [BlockState.next, h]

/-- R87 where a RENDER_FRAME is accepted. -/
theorem BlockState.next_start (u : Six ChannelEvent) {c : Config} {b : BlockState} {i : Inputs} (hrst : i.rst = false)
    (hs : BlockState.starts c b i = true) :
    BlockState.next u c b i = ({ b with
      pat := i.cmdData.extractLsb' 0 6, ev := clampEvents c (expand c (i.cmdData.extractLsb' 0 6)), busy := true,
      t := 0, done := b.busy && b.t + 1 == c.periodUs } : BlockState).withPorts := by
  unfold BlockState.starts at hs
  simp only [BlockState.next, hrst, hs, cond_false, cond_true]

/-- R87 where no frame starts: its three last branches as one. -/
theorem BlockState.next_advance (u : Six ChannelEvent) {c : Config} {b : BlockState} {i : Inputs} (hrst : i.rst = false)
    (hs : BlockState.starts c b i = false) :
    BlockState.next u c b i = ({ b with
      busy := b.busy && !(b.busy && b.t + 1 == c.periodUs),
      t := if b.busy && b.t + 1 == c.periodUs then 0 else if b.busy then b.t + 1 else b.t,
      done := b.busy && b.t + 1 == c.periodUs } : BlockState).withPorts := by
  unfold BlockState.starts at hs
  simp only [BlockState.next, hrst, hs, cond_false]
  cases b.busy <;> cases b.t + 1 == c.periodUs <;> simp

theorem inputs_of_word {s : State} {w : CmdWord} (h : s.offer = .word w) :
    s.inputs.cmdValid = true ∧ s.inputs.cmdData = w := by
  simp [State.inputs, h]

theorem inputs_of_nothing {s : State} (h : s.offer = .nothing) : s.inputs.cmdValid = false := by
  simp [State.inputs, h]

/-- The offer is taken exactly as R87's `accept` says, the harness apart (R31). -/
theorem accepts_eq_inputs {s : State} (h : ∀ evs, s.offer ≠ .events evs) :
    s.accepts = (s.inputs.cmdValid && (!s.inputs.rst && s.ready)) := by
  cases ho : s.offer with
  | nothing => simp [State.accepts, State.inputs, ho]
  | word w => simp [State.accepts, State.inputs, State.cmdReady, ho]
  | events evs => exact absurd ho (h evs)

/-- R87 starts a frame exactly where the block is ready and a RENDER_FRAME is offered. -/
theorem starts_of_word {s : State} {w : CmdWord} (ho : s.offer = .word w) :
    BlockState.starts s.cfg s.block s.inputs = (s.ready && w.extractLsb' 12 4 == 0b0001#4) := by
  obtain ⟨valid, data⟩ := inputs_of_word ho
  rw [BlockState.starts, valid, data]; rfl

/-- R87 starts no frame at a boundary that is one without a frame start. -/
theorem starts_of_advanced {s : State}
    (hn : s.ready = false ∨ s.offer = .nothing ∨ ∃ w, s.offer = .word w ∧ w &&& 0xF000#16 ≠ 0x1000#16) :
    BlockState.starts s.cfg s.block s.inputs = false := by
  rcases hn with held | nothing | ⟨w, ho, hw⟩
  · have notReady : (!s.block.busy || s.block.t + 1 == s.cfg.periodUs) = false := held
    rw [BlockState.starts, notReady, Bool.and_false, Bool.false_and]
  · rw [BlockState.starts, inputs_of_nothing nothing, Bool.false_and, Bool.false_and]
  · rw [starts_of_word ho, beq_eq_false_iff_ne.mpr (mt (renderRow_iff_op w).mpr hw), Bool.and_false]

/-- Each case of a boundary is R87's `Next` on the architectural fields, where the harness offers nothing. -/
theorem BoundaryCase.block_eq_next {s t : State} (hc : BoundaryCase s t) (h : s.Inv)
    (hne : ∀ evs, s.offer ≠ .events evs) : t.block = BlockState.next t.ev s.cfg s.block s.inputs := by
  have inv := hc.inv h
  cases hc with
  | reset hrst => rw [BlockState.next_reset _ _ _ hrst]; rfl
  | accepted w hrst ho hw hr =>
    have starts : BlockState.starts s.cfg s.block s.inputs = true := by
      rw [starts_of_word ho, hr, (renderRow_iff_op w).mp hw]; rfl
    rw [BlockState.next_start _ hrst starts, (inputs_of_word ho).2]
    have started := startFrame_spec ({ s.nextInterval with pat := patternField w } : State)
      (clampEvents s.cfg (expand s.cfg (patternField w)))
    exact inv.block_eq_withPorts started.busy started.tick started.pat started.ev started.done
  | harness evs _ ho _ => exact absurd ho (hne evs)
  | advanced hrst hn =>
    rw [BlockState.next_advance _ hrst (starts_of_advanced hn)]
    have adv := advance_spec s.nextInterval
    have tick := adv.tick
    rw [nextInterval_nextTick, h.nextTick_eq] at tick
    exact inv.block_eq_withPorts adv.busy tick adv.pat adv.ev adv.done

end Sys2Proof.Machine
end

section
/-! Runs of the block in service (R83, R89): the ticks inside a frame, the boundary that ends it, and a command held for
that boundary. -/

namespace Sys2Proof.Machine

/-- A run of `m + n` steps is `m` steps and then `n`. -/
theorem run_add {m : Nat} {s u : State} (h : core.run m s = .next u) (n : Nat) :
    core.run (m + n) s = core.run n u := by
  induction m generalizing s with
  | zero => cases h; rw [Nat.zero_add]
  | succ m ih =>
    rw [Nat.add_right_comm]
    simp only [Host.Core.run] at h ⊢
    split at h
    · exact ih h
    · cases h
    · cases h

theorem run_one {s u : State} (h : step s = .next u) : core.run 1 s = .next u := by
  have hcore : core.step s = .next u := h
  simp only [Host.Core.run, hcore]

/-- One step more at the end of a run. -/
theorem run_succ {m : Nat} {s u v : State} (h : core.run m s = .next u) (hstep : step u = .next v) :
    core.run (m + 1) s = .next v :=
  (run_add h 1).trans (run_one hstep)

theorem rst_eq_false_iff (s : State) : s.rst = false ↔ s.now ∉ s.resetAt := by
  simp [State.rst]

/-- The host's first move, if it has one, is an offer that it does not withdraw (R61). -/
def holdsOffer (moves : List HostMove) : Prop := ∀ m ∈ moves.head?, ∃ w, m.act = .offer w

/-- A held offer stays while it is not accepted (R90). -/
theorem movesAfter_of_holdsOffer {moves : List HostMove} (h : holdsOffer moves) (now : Nat) :
    movesAfter now false moves = moves := by
  cases moves with
  | nil => rfl
  | cons m rest =>
    obtain ⟨w, hw⟩ := h m rfl
    simp only [movesAfter, hw]
    split <;> rfl

/-- `u` is `n` ticks later than `s` in the frame that `s` is in. -/
structure FrameGoesOn (s : State) (n : Nat) (u : State) : Prop where
  inv : u.Inv
  busy : u.busy = true
  tick : u.t = s.t + n
  pat : u.pat = s.pat
  ev : u.ev = s.ev
  cfg : u.cfg = s.cfg
  now : u.now = s.now + n
  resetAt : u.resetAt = s.resetAt
  host : holdsOffer s.host → u.host = s.host

theorem FrameGoesOn.refl {s : State} (h : s.Inv) (hb : s.busy = true) : FrameGoesOn s 0 s :=
  ⟨h, hb, rfl, rfl, rfl, rfl, rfl, rfl, fun _ => rfl⟩

theorem FrameGoesOn.succ {s u v : State} {n : Nat} (h : FrameGoesOn s n u) (k : FrameGoesOn u 1 v) :
    FrameGoesOn s (n + 1) v where
  inv := k.inv
  busy := k.busy
  tick := by rw [k.tick, h.tick, Nat.add_assoc]
  pat := k.pat.trans h.pat
  ev := k.ev.trans h.ev
  cfg := k.cfg.trans h.cfg
  now := by rw [k.now, h.now, Nat.add_assoc]
  resetAt := k.resetAt.trans h.resetAt
  host held := by rw [k.host (by rwa [h.host held]), h.host held]

/-- No reset is sampled `n` ticks on, where the host asserts none in that interval. -/
theorem FrameGoesOn.rst_eq_false {s u : State} {n : Nat} (h : FrameGoesOn s n u) (hn : s.now + n ∉ s.resetAt) :
    u.rst = false := by
  rwa [rst_eq_false_iff, h.now, h.resetAt]

/-- Short of a frame's last interval, without reset, a step goes one tick on in the frame (R87). -/
theorem step_inFrame {s : State} (h : s.Inv) (hb : s.busy = true) (short : s.t + 1 < s.cfg.periodUs)
    (hrst : s.rst = false) : ∃ u : State, step s = .next u ∧ FrameGoesOn s 1 u := by
  have he : s.ending = false := Bool.eq_false_iff.mpr fun he => short.ne ((ending_iff s).mp he).2
  have hr : s.ready = false := Bool.eq_false_iff.mpr (mt (ready_iff s).mp (by simp [hb, he]))
  have hstep := step_not_ready h.valid hr
  rw [if_neg (by simp [hrst])] at hstep
  have adv := advance_spec s.nextInterval
  have heNext : s.nextInterval.ending = false := he
  have notAccepted : s.accepts = false := by simp [State.accepts, State.cmdReady, hr]
  refine ⟨_, hstep, h.nextInterval.advance, ?_, ?_, adv.pat, adv.ev, adv.surroundings.cfg, adv.surroundings.now,
    adv.surroundings.resetAt, fun held => ?_⟩
  · rw [adv.busy, heNext]; simp [hb]
  · rw [adv.tick, heNext]; simp [hb, h.nextTick_eq]
  · rw [adv.surroundings.host, nextInterval_host, notAccepted, movesAfter_of_holdsOffer held]

/-- A frame runs on tick by tick while its period lasts and no reset comes (R83). -/
theorem run_inFrame {s : State} (h : s.Inv) (hb : s.busy = true) : ∀ n, s.t + n < s.cfg.periodUs → s.noResetFor n →
    ∃ u : State, core.run n s = .next u ∧ FrameGoesOn s n u := by
  intro n
  induction n with
  | zero => exact fun _ _ => ⟨s, rfl, .refl h hb⟩
  | succ n ih =>
    intro short noReset
    obtain ⟨u, hrun, on⟩ := ih (by omega) fun i hi => noReset i (by omega)
    obtain ⟨v, hstep, tick⟩ := step_inFrame on.inv on.busy (by rw [on.tick, on.cfg]; omega)
      (on.rst_eq_false (noReset n (by omega)))
    exact ⟨v, run_succ hrun hstep, on.succ tick⟩

/-- From a frame's first interval, its last (R83). -/
theorem run_toLastInterval {s : State} (h : s.Inv) (hb : s.busy = true) (ht : s.t = 0)
    (noReset : s.noResetFor (s.cfg.periodUs - 1)) :
    ∃ u : State, core.run (s.cfg.periodUs - 1) s = .next u ∧ FrameGoesOn s (s.cfg.periodUs - 1) u ∧ u.ending = true := by
  have pos := (configFacts h.valid).period_pos
  obtain ⟨u, hrun, on⟩ := run_inFrame h hb (s.cfg.periodUs - 1) (by omega) noReset
  exact ⟨u, hrun, on, (ending_iff u).mpr ⟨on.busy, by rw [on.tick, on.cfg]; omega⟩⟩

/-- After the boundary at a frame's end the tick count is 0, whether a frame starts there or not. -/
theorem BoundaryCase.tick_of_ending {s t : State} (hc : BoundaryCase s t) (he : s.ending = true) : t.t = 0 := by
  cases hc with
  | reset _ => rfl
  | accepted w _ _ _ _ => exact (startFrame_spec _ _).tick
  | harness evs _ _ _ => exact (startFrame_spec _ _).tick
  | advanced _ _ => exact (advance_spec _).tick.trans (if_pos he)

/-- The step at a frame's end, without reset, sets `done` (R27, R83). -/
theorem step_of_ending {s : State} (h : s.Inv) (he : s.ending = true) (hrst : s.rst = false) :
    ∃ t, step s = .next t ∧ t.done = true ∧ t.t = 0 := by
  obtain ⟨t, hstep, hboundary⟩ := step_boundary_cases h.valid (onBench_inService h.inService)
  exact ⟨t, hstep, by rw [hboundary.done, he, hrst]; rfl, hboundary.tick_of_ending he⟩

/-- The step at which a ready block accepts the RENDER_FRAME that heads the host's moves: its frame's first interval is
the next, and the move is over (R72, R89). -/
theorem step_heldCommand {s : State} (h : s.Inv) (hr : s.ready = true) (hrst : s.rst = false) {start : Nat}
    {w : CmdWord} {rest : List HostMove} (hhost : s.host = ⟨start, .offer w⟩ :: rest) (due : start ≤ s.now)
    (hw : w.extractLsb' 12 4 = 0b0001#4) :
    ∃ u : State, step s = .next u ∧ u.Inv ∧ u.busy = true ∧ u.t = 0 ∧ u.pat = w.extractLsb' 0 6 ∧ u.done = s.ending ∧
      u.host = rest ∧ u.cfg = s.cfg ∧ u.resetAt = s.resetAt := by
  have ho := offer_of_due hhost due (.inl rfl)
  have hboundary := BoundaryCase.accepted w hrst ho ((renderRow_iff_op w).mpr hw) hr
  have hstep := step_offeredCommand h.valid (onBench_inService h.inService) hrst ho (decode_render_of_op hw)
  have accepted := accepts_of_word ho ((cmdReady_iff s).mpr ⟨hrst, hr⟩)
  have started := startFrame_spec ({ s.nextInterval with pat := patternField w } : State)
    (clampEvents s.cfg (expand s.cfg (patternField w)))
  refine ⟨_, hstep.trans (execRenderFrame_ready (s := s.nextInterval) hr _), hboundary.inv h, started.busy,
    started.tick, started.pat, started.done, hboundary.host.trans ?_, hboundary.cfg, started.surroundings.resetAt⟩
  rw [hhost, accepted, movesAfter_offer due, if_pos rfl]

end Sys2Proof.Machine
end

section
/-! Commands held one after the other (R89, R124): each frame of them, and the run of them all by induction. -/

namespace Sys2Proof.Machine

/-- The host's moves that offer some words one after the other, each as soon as it may. -/
def offersOf (ws : List CmdWord) : List HostMove := ws.map (fun w => ⟨0, .offer w⟩)

theorem holdsOffer_offersOf (ws : List CmdWord) : holdsOffer (offersOf ws) := by
  cases ws with
  | nil => intro m hm; cases hm
  | cons w ws => rintro m ⟨⟩; exact ⟨w, rfl⟩

theorem rst_of_nil {s : State} (h : s.resetAt = []) : s.rst = false := by
  rw [rst_eq_false_iff, h]; exact List.not_mem_nil

/-- A ready block with words on offer and no reset to come. -/
structure Offered (s : State) (ws : List CmdWord) : Prop where
  inv : s.Inv
  ready : s.ready = true
  noReset : s.resetAt = []
  host : s.host = offersOf ws

/-- The frame of the first word on offer: its intervals, and its last one, in which the other words are on offer to a
block that is ready again (R89). -/
theorem Offered.firstFrame {s : State} {w : CmdWord} {ws : List CmdWord} (h : Offered s (w :: ws))
    (hw : w.extractLsb' 12 4 = 0b0001#4) :
    (∀ n, n < s.cfg.periodUs → ∃ u : State, core.run (n + 1) s = .next u ∧ u.busy = true ∧ u.t = n ∧
      u.pat = w.extractLsb' 0 6) ∧
    ∃ v : State, core.run s.cfg.periodUs s = .next v ∧ Offered v ws ∧ v.ending = true ∧ v.cfg = s.cfg := by
  obtain ⟨f, hstep, inv, hb, ht, hpat, -, hhost, hcfg, hreset⟩ :=
    step_heldCommand h.inv h.ready (rst_of_nil h.noReset) h.host (Nat.zero_le _) hw
  have noReset : ∀ n, f.noResetFor n := fun n i _ => by rw [hreset, h.noReset]; exact List.not_mem_nil
  rw [← hcfg]
  constructor
  · intro n hn
    obtain ⟨u, hrun, on⟩ := run_inFrame inv hb n (by omega) (noReset n)
    refine ⟨u, ?_, on.busy, by rw [on.tick, ht, Nat.zero_add], on.pat.trans hpat⟩
    rw [Nat.add_comm]; exact (run_add (run_one hstep) n).trans hrun
  · obtain ⟨v, hrun, on, he⟩ := run_toLastInterval inv hb ht (noReset _)
    have pos := (configFacts inv.valid).period_pos
    refine ⟨v, ?_, ⟨on.inv, (ready_iff v).mpr (.inr he), on.resetAt.trans (hreset.trans h.noReset), ?_⟩, he, on.cfg⟩
    · have whole := (run_add (run_one hstep) _).trans hrun
      rwa [Nat.add_sub_cancel' pos] at whole
    · rw [on.host (hhost ▸ holdsOffer_offersOf ws), hhost]; rfl

/-- Interval `n` of the run of the words on offer is tick `n mod PERIOD_US` of the frame of word `n / PERIOD_US`
(R124). -/
theorem Offered.interval {ws : List CmdWord} : ∀ {s : State}, Offered s ws →
    (∀ w ∈ ws, w.extractLsb' 12 4 = 0b0001#4) → ∀ n, n < ws.length * s.cfg.periodUs →
    ∃ u : State, core.run (n + 1) s = .next u ∧ u.busy = true ∧ u.t = n % s.cfg.periodUs ∧
      ∃ w, ws[n / s.cfg.periodUs]? = some w ∧ u.pat = w.extractLsb' 0 6 := by
  induction ws with
  | nil => intro s _ _ n hn; simp at hn
  | cons w ws ih =>
    intro s h hws n hn
    obtain ⟨frame, v, hrun, next, -, hcfg⟩ := h.firstFrame (hws w List.mem_cons_self)
    have pos := (configFacts h.inv.valid).period_pos
    by_cases first : n < s.cfg.periodUs
    · obtain ⟨u, hrun, hb, ht, hpat⟩ := frame n first
      exact ⟨u, hrun, hb, by rw [ht, Nat.mod_eq_of_lt first], w, by rw [Nat.div_eq_of_lt first]; rfl, hpat⟩
    · obtain ⟨m, rfl⟩ := Nat.exists_eq_add_of_le (Nat.le_of_not_lt first)
      rw [List.length_cons, Nat.succ_mul] at hn
      obtain ⟨u, hrun', hb, ht, w', hw', hpat⟩ :=
        ih next (fun w hw => hws w (List.mem_cons_of_mem _ hw)) m (by rw [hcfg]; omega)
      rw [hcfg] at ht hw'
      refine ⟨u, (run_add hrun (m + 1)).trans hrun', hb, by rw [ht, Nat.add_mod_left], w', ?_, hpat⟩
      rw [Nat.add_div_left _ pos, List.getElem?_cons_succ, hw']

/-- A frame that ends with no word on offer leaves the block idle, with `done` (R91). -/
theorem Offered.idle {s : State} (h : Offered s []) (he : s.ending = true) :
    ∃ u : State, core.run 1 s = .next u ∧ u.busy = false ∧ u.done = true ∧ u.host = [] := by
  have hrst := rst_of_nil h.noReset
  have hhost : s.host = [] := h.host
  have ho : s.offer = .nothing := by simp [State.offer, hhost]
  have hstep : step s = .next s.nextInterval.advance := by
    rw [step_boundary h.inv.valid (onBench_inService h.inv.inService), hrst, ho]; rfl
  have adv := advance_spec s.nextInterval
  refine ⟨_, run_one hstep, (advance_ready (s := s.nextInterval) h.ready).1, adv.done.trans he, ?_⟩
  rw [adv.surroundings.host, nextInterval_host, hhost]; rfl

/-- The frames of all the words on offer end after as many periods (R124); where there is none, a frame ends at once. -/
theorem Offered.lastFrameEnds {ws : List CmdWord} : ∀ {s : State}, Offered s ws →
    (∀ w ∈ ws, w.extractLsb' 12 4 = 0b0001#4) → (ws = [] → s.ending = true) →
    ∃ u : State, core.run (ws.length * s.cfg.periodUs + 1) s = .next u ∧ u.busy = false ∧ u.done = true ∧
      u.host = [] := by
  induction ws with
  | nil =>
    intro s h _ he
    rw [List.length_nil, Nat.zero_mul, Nat.zero_add]
    exact h.idle (he rfl)
  | cons w ws ih =>
    intro s h hws _
    obtain ⟨-, v, hrun, next, he, hcfg⟩ := h.firstFrame (hws w List.mem_cons_self)
    obtain ⟨u, hrun', idle⟩ := ih next (fun w hw => hws w (List.mem_cons_of_mem _ hw)) fun _ => he
    refine ⟨u, ?_, idle⟩
    rw [List.length_cons, Nat.succ_mul, Nat.add_comm (ws.length * _), Nat.add_assoc, run_add hrun, ← hcfg, hrun']

end Sys2Proof.Machine
end

section
/-! The clamp (R73) and the order of the falls (R75). -/

namespace Sys2Proof.Machine

@[simp] theorem clampEvents_port (c : Config) (evs : Six RawEvent) (k : Fin 6) :
    ((clampEvents c evs).get k).port = (evs.get k).port := by
  rw [clampEvents, Six_get_ofFn, clampEvent]

@[simp] theorem clampEvents_mask (c : Config) (evs : Six RawEvent) (k : Fin 6) :
    ((clampEvents c evs).get k).mask = (evs.get k).mask := by
  rw [clampEvents, Six_get_ofFn, clampEvent]

/-- A clamped duration fits its register (R29, R73). -/
theorem clampEvents_dur {c : Config} (hv : configValid c = true) (evs : Six RawEvent) (k : Fin 6) :
    ((clampEvents c evs).get k).dur = min (evs.get k).dur c.periodUs := by
  rw [clampEvents, Six_get_ofFn, clampEvent]
  exact durReg_of_le_period hv (Nat.min_le_right _ _)

/-- The duration of a pattern's event is at least the shortest pulse, and no pulse outlasts the period (R8, R66). -/
theorem expand_dur_bounds {c : Config} (hv : configValid c = true) (pat : Pattern) (k : Fin 6) :
    c.servoMinUs ≤ ((expand c pat).get k).dur ∧ ((expand c pat).get k).dur ≤ c.periodUs := by
  have facts := configFacts hv
  rw [expand_get, channelEvent]
  exact ⟨servoMin_le_pulseUs c _, (pulseUs_le_servoMax facts _).trans facts.max_le_period⟩

/-- Clamping leaves the durations of a pattern alone (R73). -/
theorem clampEvents_expand_dur {c : Config} (hv : configValid c = true) (pat : Pattern) (k : Fin 6) :
    ((clampEvents c (expand c pat)).get k).dur = ((expand c pat).get k).dur := by
  rw [clampEvents_dur hv, Nat.min_eq_left (expand_dur_bounds hv pat k).2]

theorem referenceTieRank : ∀ k : Fin 6, (⟨0, 1, 2, 3, 4, 5⟩ : Six Nat).get k = k.val := by decide

/-- At the reference tie order two slots are in the order of R75 exactly where one is cleared before the other. -/
theorem clearedBefore_of_firesBefore {c : Config} (ht : c.tieRank = ⟨0, 1, 2, 3, 4, 5⟩) {ev : Six ChannelEvent}
    {a b : Fin 6} (hab : a ≠ b) (h : firesBefore c ev a b = true) : clearedBefore ev a b := by
  rw [firesBefore_iff, ht, referenceTieRank, referenceTieRank] at h
  have : a.val ≠ b.val := Fin.val_ne_of_ne hab
  unfold clearedBefore
  omega

theorem channels_nodup : channels.Nodup := by decide

/-- At the reference tie order σ is strictly ascending in duration, then slot (R75). -/
theorem sortEvents_clearedBefore {c : Config} (ht : c.tieRank = ⟨0, 1, 2, 3, 4, 5⟩) (ev : Six ChannelEvent) :
    (sortEvents c ev).toList.Pairwise (clearedBefore ev) := by
  have distinct : (sortEvents c ev).toList.Nodup := (sortEvents_perm c ev).nodup_iff.mpr channels_nodup
  have sorted := sortSlots_pairwise (firesBefore_total c ev) (firesBefore_trans c ev) channels
  rw [← sortEvents_toList] at sorted
  exact List.Pairwise.imp₂ (fun _ _ hab h => clearedBefore_of_firesBefore ht hab h) distinct sorted

/-- Two strictly sorted orders of the same slots are one (R75). -/
theorem eq_of_clearedBefore {ev : Six ChannelEvent} {xs ys : List (Fin 6)} (hx : xs.Pairwise (clearedBefore ev))
    (hy : ys.Pairwise (clearedBefore ev)) (perm : xs.Perm ys) : xs = ys := by
  refine List.Perm.eq_of_pairwise (fun a b _ _ hab hba => ?_) hx hy perm
  unfold clearedBefore at hab hba
  omega

end Sys2Proof.Machine
end

section
/-! The frame stream as a list (R76): its WAITs, its edges with their instants, and its padding. -/

namespace Sys2Proof.Machine

/-- From `elapsed` on the durations ascend along the order, so R76's differences are exact (R77). -/
structure FallsInOrder (ev : Six ChannelEvent) (order : List (Fin 6)) (elapsed : Nat) : Prop where
  sorted : order.Pairwise (fun j k => (ev.get j).dur ≤ (ev.get k).dur)
  elapsed_le : ∀ k ∈ order, elapsed ≤ (ev.get k).dur

theorem FallsInOrder.head {ev : Six ChannelEvent} {k : Fin 6} {ks : List (Fin 6)} {elapsed : Nat}
    (h : FallsInOrder ev (k :: ks) elapsed) : elapsed ≤ (ev.get k).dur :=
  h.elapsed_le k List.mem_cons_self

theorem FallsInOrder.tail {ev : Six ChannelEvent} {k : Fin 6} {ks : List (Fin 6)} {elapsed : Nat}
    (h : FallsInOrder ev (k :: ks) elapsed) : FallsInOrder ev ks (ev.get k).dur :=
  have ⟨first, rest⟩ := List.pairwise_cons.mp h.sorted
  ⟨rest, first⟩

theorem fallsInOrder_sortEvents (c : Config) (ev : Six ChannelEvent) :
    FallsInOrder ev (sortEvents c ev).toList 0 :=
  ⟨sortEvents_sorted c ev, fun _ _ => Nat.zero_le _⟩

theorem mem_sortEvents (c : Config) (ev : Six ChannelEvent) (k : Fin 6) : k ∈ (sortEvents c ev).toList :=
  (sortEvents_perm c ev).mem_iff.mpr (mem_channels k)

/-! ### The WAITs (R77) -/

/-- The WAITs of the falling edges add up to what is left of the period: each takes the stream on to its event's
duration, and the padding to the period's end. -/
theorem fallingEdges_ticks {c : Config} {ev : Six ChannelEvent} {order : List (Fin 6)}
    (hper : ∀ k ∈ order, (ev.get k).dur ≤ c.periodUs) : ∀ {elapsed : Nat}, FallsInOrder ev order elapsed →
    ((fallingEdges c ev order elapsed).map uopTicks).sum = c.periodUs - elapsed := by
  induction order with
  | nil => intro elapsed _; rfl
  | cons k ks ih =>
    intro elapsed h
    have rest := ih (fun j hj => hper j (List.mem_cons_of_mem k hj)) h.tail
    have first := h.head
    have last := hper k List.mem_cons_self
    simp only [fallingEdges, List.map_cons, List.sum_cons, uopTicks, rest]
    omega

theorem fallingEdges_waits (c : Config) (ev : Six ChannelEvent) (order : List (Fin 6)) (elapsed : Nat) :
    ((fallingEdges c ev order elapsed).filter isWait).length = order.length + 1 := by
  induction order generalizing elapsed with
  | nil => rfl
  | cons k ks ih => exact congrArg Nat.succ (ih (ev.get k).dur)

/-- The rising edges hold no WAIT (R79), so a stream has those of its falling edges (R77). -/
theorem frameStream_waits (c : Config) (ev : Six ChannelEvent) : ((frameStream c ev).filter isWait).length = 7 :=
  fallingEdges_waits c ev (sortEvents c ev).toList 0

theorem frameStream_ticks {c : Config} {ev : Six ChannelEvent} (hper : ∀ k, (ev.get k).dur ≤ c.periodUs) :
    ((frameStream c ev).map uopTicks).sum = c.periodUs := by
  have falls := fallingEdges_ticks (fun k _ => hper k) (fallsInOrder_sortEvents c ev)
  simpa [frameStream, streamInOrder, channels, uopTicks] using falls

/-- A WAIT takes no more ticks than the whole stream, which is the period. -/
theorem wait_le_period {c : Config} {ev : Six ChannelEvent} (hper : ∀ k, (ev.get k).dur ≤ c.periodUs) {n : Nat}
    (h : Instr.wait n ∈ frameStream c ev) : n ≤ c.periodUs := by
  rw [← frameStream_ticks hper]
  exact List.le_sum_of_mem (List.mem_map_of_mem h)

/-! ### The edges and their instants (R79, R80) -/

/-- The micro-operations that are no WAIT, with their instants. -/
def edges (stream : List (Nat × Instr)) : List (Nat × Instr) := stream.filter (fun e => !isWait e.2)

theorem mem_edges {stream : List (Nat × Instr)} {tau : Nat} {i : Instr} :
    (tau, i) ∈ edges stream ↔ (tau, i) ∈ stream ∧ isWait i = false := by
  simp [edges]

/-- Each fall is at its own event's duration (R80). -/
theorem edges_fallingEdges (c : Config) {ev : Six ChannelEvent} {order : List (Fin 6)} :
    ∀ {elapsed : Nat}, FallsInOrder ev order elapsed →
      edges (withInstants elapsed (fallingEdges c ev order elapsed))
        = order.map (fun k => ((ev.get k).dur, .pclr (ev.get k).port (ev.get k).mask)) := by
  induction order with
  | nil => intro elapsed _; rfl
  | cons k ks ih =>
    intro elapsed h
    have rest := ih h.tail
    have instant : elapsed + ((ev.get k).dur - elapsed) = (ev.get k).dur := Nat.add_sub_cancel' h.head
    rw [fallingEdges, withInstants, withInstants, uopTicks, uopTicks, instant, Nat.add_zero, List.map_cons, ← rest]
    rfl

/-- Every rise is at instant 0 (R79). -/
theorem withInstants_rises (ev : Six ChannelEvent) (rest : List Instr) (slots : List (Fin 6)) :
    withInstants 0 (slots.map (fun k => .pset (ev.get k).port (ev.get k).mask) ++ rest)
      = slots.map (fun k => (0, .pset (ev.get k).port (ev.get k).mask)) ++ withInstants 0 rest := by
  induction slots with
  | nil => rfl
  | cons k ks ih => exact congrArg _ ih

/-- The edges of a frame: the six rises at instant 0, and each event's fall at its own duration (R79, R80). -/
theorem mem_edges_frameStream (c : Config) (ev : Six ChannelEvent) (tau : Nat) (i : Instr) :
    (tau, i) ∈ edges (withInstants 0 (frameStream c ev)) ↔
      (∃ k, tau = 0 ∧ i = .pset (ev.get k).port (ev.get k).mask) ∨
        ∃ k, tau = (ev.get k).dur ∧ i = .pclr (ev.get k).port (ev.get k).mask := by
  have rises : edges (channels.map (fun k => (0, .pset (ev.get k).port (ev.get k).mask)))
      = channels.map (fun k => (0, .pset (ev.get k).port (ev.get k).mask)) := rfl
  have falls := edges_fallingEdges c (fallsInOrder_sortEvents c ev)
  rw [edges] at rises falls
  rw [frameStream, streamInOrder, withInstants_rises, edges, List.filter_append, rises, falls]
  simp only [List.mem_append, List.mem_map, mem_channels, mem_sortEvents, true_and, Prod.mk.injEq, eq_comm]

theorem pset_mem_frameStream (c : Config) (ev : Six ChannelEvent) (tau : Nat) (p : Port) (m : Slice) :
    (tau, .pset p m) ∈ withInstants 0 (frameStream c ev) ↔
      ∃ k, tau = 0 ∧ p = (ev.get k).port ∧ m = (ev.get k).mask := by
  have h := mem_edges_frameStream c ev tau (.pset p m)
  rw [mem_edges] at h
  simpa [isWait] using h

theorem pclr_mem_frameStream (c : Config) (ev : Six ChannelEvent) (tau : Nat) (p : Port) (m : Slice) :
    (tau, .pclr p m) ∈ withInstants 0 (frameStream c ev) ↔
      ∃ k, tau = (ev.get k).dur ∧ p = (ev.get k).port ∧ m = (ev.get k).mask := by
  have h := mem_edges_frameStream c ev tau (.pclr p m)
  rw [mem_edges] at h
  simpa [isWait] using h

/-! ### The padding (R82) -/

theorem fallingEdges_getLast (c : Config) (ev : Six ChannelEvent) (k : Fin 6) (order : List (Fin 6)) (elapsed : Nat) :
    (fallingEdges c ev (order ++ [k]) elapsed).getLast? = some (.wait (c.periodUs - (ev.get k).dur)) := by
  induction order generalizing elapsed with
  | nil => rfl
  | cons j js ih =>
    rw [List.cons_append, fallingEdges, List.getLast?_cons_cons, List.getLast?_cons, ih]; rfl

/-- The stream ends with the padding that the longest duration leaves of the period (R82). -/
theorem frameStream_getLast (c : Config) (ev : Six ChannelEvent) :
    ∃ k, (frameStream c ev).getLast? = some (.wait (c.periodUs - (ev.get k).dur)) ∧
      ∀ j, (ev.get j).dur ≤ (ev.get k).dur := by
  obtain ⟨order, k, hlast⟩ : ∃ order k, (sortEvents c ev).toList = order ++ [k] :=
    ⟨_, _, (List.dropLast_append_getLast (List.ne_nil_of_mem (mem_sortEvents c ev 0))).symm⟩
  have sorted := sortEvents_sorted c ev
  rw [hlast, List.pairwise_append] at sorted
  obtain ⟨-, -, below⟩ := sorted
  refine ⟨k, ?_, fun j => ?_⟩
  · rw [frameStream, streamInOrder, hlast, List.getLast?_append, fallingEdges_getLast, Option.some_or]
  · have hj := mem_sortEvents c ev j
    rw [hlast, List.mem_append, List.mem_singleton] at hj
    rcases hj with hj | rfl
    · exact below j hj k List.mem_cons_self
    · exact Nat.le_refl _

/-- With the defaults the longest duration is that of a dot down, or of a dot up where there is one (R71, R82). -/
theorem longest_reference (pat : Pattern) (k : Fin 6)
    (h : ∀ j, ((expand Config.reference pat).get j).dur ≤ ((expand Config.reference pat).get k).dur) :
    ((expand Config.reference pat).get k).dur = if pat = 0#6 then 600 else 1500 := by
  have dur := referenceDurations pat
  split_ifs with hp
  · subst hp; rw [dur, BitVec.getLsbD_zero]; rfl
  · obtain ⟨j, up⟩ : ∃ j : Fin 6, pat.getLsbD j = true := by
      by_contra allDown
      refine hp (BitVec.eq_of_getLsbD_eq fun i hi => ?_)
      simpa using fun up => allDown ⟨⟨i, hi⟩, up⟩
    have above : 1500 ≤ ((expand Config.reference pat).get k).dur := by
      have hj := h j
      rwa [dur j, if_pos up] at hj
    rw [dur] at above ⊢
    split_ifs at above ⊢
    · rfl
    · omega

end Sys2Proof.Machine
end

section
/-! The sequencer's run entry by entry (R76, R94). -/

namespace Sys2Proof.Machine

/-- The entry at the index is performed as `exec` performs it; the sequencer's own registers apart (R94). -/
theorem performEntry_exec {s : State} {i : Instr} (h : s.nextUop = some i) :
    ∃ t, exec i s = .next t ∧ s.performEntry = { t with upc := nextIndex s.upc, elapsed := s.elapsedAfter } := by
  simp only [State.performEntry, h]
  rcases nextUop_kind h with ⟨p, m, rfl⟩ | ⟨p, m, rfl⟩ | ⟨n, rfl⟩ <;> exact ⟨_, rfl, rfl⟩

/-- What `exec` makes of the entry's port and time is what the sequencer makes of them. -/
theorem performEntry_port_tau {s : State} {i : Instr} (h : s.nextUop = some i) :
    ∃ t, exec i s = .next t ∧ s.performEntry.port = t.port ∧ s.performEntry.tau = t.tau := by
  obtain ⟨t, hexec, hentry⟩ := performEntry_exec h
  exact ⟨t, hexec, by rw [hentry]; rfl, by rw [hentry]⟩

/-- Where no entry is left, none is performed. -/
theorem performEntry_of_none {s : State} (h : s.nextUop = none) : s.performEntry = s := by
  simp only [State.performEntry, h]

/-- The `k`-th micro-operation emitted is the one at the index after `k` entries. -/
theorem emits_getElem? {k n : Nat} (hk : k < n) (s : State) :
    (State.emits n s)[k]? = (Nat.iterate State.performEntry k s).nextUop := by
  induction n generalizing k s with
  | zero => omega
  | succ n ih =>
    cases hu : s.nextUop with
    | none =>
      rw [Function.iterate_fixed (performEntry_of_none hu), hu, State.emits, hu]; rfl
    | some i =>
      rw [emits_cons hu]
      cases k with
      | zero => exact hu.symm
      | succ k => exact ih (by omega) s.performEntry

/-- The sequencer emits an entry for each index up to the stream's end. -/
theorem emits_length (n : Nat) (s : State) : (State.emits n s).length = min n (19 - s.upc.val) := by
  induction n generalizing s with
  | zero => simp [State.emits]
  | succ n ih =>
    have left := nextUop_isSome s
    cases hu : s.nextUop with
    | none =>
      have : ¬ s.upc.val < 19 := by simpa [hu] using left
      simp only [State.emits, hu, List.length_nil]; omega
    | some i =>
      have : s.upc.val < 19 := by simpa [hu] using left
      rw [emits_cons hu, List.length_cons, ih, performEntry_upc this]; omega

/-- At a frame's start the sequencer is about to emit the frame stream (R76). -/
theorem emits_frameStream {s : State} (hupc : s.upc = 0) (he : s.elapsed = 0)
    (hsigma : s.sigma = sortEvents s.cfg s.ev) : State.emits 19 s = frameStream s.cfg s.ev := by
  have run := emits_rises 6 0 s rfl (congrArg Fin.val hupc)
  rw [he, hsigma] at run
  exact run

/-- The `n`-th micro-operation from a frame's start is entry `n` of the frame stream, and after its 19 entries there is
none (R76). -/
theorem nextUop_iterate_frameStream {s : State} (hupc : s.upc = 0) (he : s.elapsed = 0)
    (hsigma : s.sigma = sortEvents s.cfg s.ev) (n : Nat) :
    (Nat.iterate State.performEntry n s).nextUop = (frameStream s.cfg s.ev)[n]? := by
  rw [← emits_frameStream hupc he hsigma, ← emits_getElem? (Nat.lt_succ_self n)]
  by_cases hn : n < 19
  · rw [emits_getElem? (Nat.lt_succ_self n), emits_getElem? hn]
  · have ended : ∀ m, (State.emits m s)[n]? = none := fun m =>
      List.getElem?_eq_none (by rw [emits_length, hupc]; omega)
    rw [ended, ended]

end Sys2Proof.Machine
end

section
/-! A frame's first instant (R79), and the boundary at which no RENDER_FRAME is on offer (R91). -/

namespace Sys2Proof.Machine

/-- While τ is below every duration each line of a pattern's frame is high: each belongs to an event (R70, R79). -/
theorem closedForm_expand_high {c : Config} (hv : configValid c = true) (pat : Pattern) (p : Port) {tau : Nat}
    (h : ∀ k, tau < ((clampEvents c (expand c pat)).get k).dur) :
    closedForm (clampEvents c (expand c pat)) p tau = 0b111#3 := by
  have high : ∀ b : Fin 3, (closedForm (clampEvents c (expand c pat)) p tau).getLsbD b = true := fun b => by
    obtain ⟨k, hk⟩ := (wiring_bijective hv).surjective ⟨p, b⟩
    have line := lineHigh_wiring hv pat k tau
    rw [hk] at line
    rw [closedForm_getLsbD, line]
    exact decide_eq_true (h k)
  have ones : ∀ b : Fin 3, (0b111#3).getLsbD b = true := by decide
  exact BitVec.eq_of_getLsbD_eq fun i hi => (high ⟨i, hi⟩).trans (ones ⟨i, hi⟩).symm

/-- At a boundary with no RENDER_FRAME on offer a ready block goes idle, or stays so (R91). -/
theorem BoundaryCase.idle_of_no_command {s t : State} (hc : BoundaryCase s t) (hr : s.ready = true)
    (ho : s.offer = .nothing ∨ ∃ w, s.offer = .word w ∧ w.extractLsb' 12 4 ≠ 0b0001#4) : t.busy = false := by
  cases hc with
  | reset _ => rfl
  | accepted w _ hw hrow _ =>
    rw [hw] at ho
    rcases ho with nothing | ⟨w', same, reserved⟩
    · cases nothing
    · obtain rfl := Offer.word.inj same
      exact absurd ((renderRow_iff_op w).mp hrow) reserved
  | harness evs _ hevs _ =>
    rw [hevs] at ho
    rcases ho with nothing | ⟨w', same, -⟩
    · cases nothing
    · cases same
  | advanced _ _ => exact (advance_ready (s := s.nextInterval) hr).1

end Sys2Proof.Machine
end

section
/-! The obligations on the frame scheduler (41_frame_scheduler.md). -/

open Sys2Proof Sys2Proof.Machine

/-- Settles O41: each case of a boundary is `Next` on the architectural fields, and the host's side is the same in all. -/
theorem stepRefinesNext : Obligations.StepRefinesNext := by
  unfold Obligations.StepRefinesNext
  intro s h hne
  obtain ⟨t, hstep, hboundary⟩ := step_boundary_cases h.valid (onBench_inService h.inService)
  exact ⟨t, t.ev, hstep, hboundary.block_eq_next h hne, hboundary.host, accepts_eq_inputs hne⟩

/-- Settles O43: the frame's ticks up to its last interval, and the step at its end. -/
theorem frameOccupiesItsPeriod : Obligations.FrameOccupiesItsPeriod := by
  unfold Obligations.FrameOccupiesItsPeriod
  intro s h hb ht noReset
  have pos := (configFacts h.valid).period_pos
  constructor
  · intro n hn
    obtain ⟨u, hrun, on⟩ := run_inFrame h hb n (by omega) fun i hi => noReset i (by omega)
    exact ⟨u, hrun, on.busy, by rw [on.tick, ht, Nat.zero_add], on.pat, on.ev⟩
  · obtain ⟨u, hrun, on, he⟩ := run_toLastInterval h hb ht fun i hi => noReset i (by omega)
    obtain ⟨v, hstep, hdone, htick⟩ := step_of_ending on.inv he (on.rst_eq_false (noReset _ (by omega)))
    have whole := run_succ hrun hstep
    rw [Nat.sub_add_cancel pos] at whole
    exact ⟨v, whole, hdone, htick⟩

/-- Settles O45, by induction on the words on offer. -/
theorem framesRunBackToBack : Obligations.FramesRunBackToBack := by
  unfold Obligations.FramesRunBackToBack
  intro s ws h hb noReset nonempty hws hhost
  have offered : Offered s ws := ⟨h, (ready_iff s).mpr (.inl hb), noReset, hhost⟩
  exact ⟨offered.interval hws, offered.lastFrameEnds hws fun none => absurd none nonempty⟩

/-- Settles O10: the clamp keeps a duration in its register's range, and a pattern's durations within the period. -/
theorem clampedDurationsAreExact : Obligations.ClampedDurationsAreExact := by
  unfold Obligations.ClampedDurationsAreExact
  intro c hv
  exact ⟨fun evs k => ⟨clampEvents_port c evs k, clampEvents_mask c evs k, clampEvents_dur hv evs k⟩,
    clampEvents_expand_dur hv⟩

/-- Settles O15: a list of distinct slots has one strictly sorted order, and the sort gives it. -/
theorem sigmaIsTheSortingPermutation : Obligations.SigmaIsTheSortingPermutation := by
  unfold Obligations.SigmaIsTheSortingPermutation
  refine ⟨fun c ev order ht => ?_, fun c ev => ⟨sortEvents_perm c ev, sortEvents_sorted c ev⟩⟩
  have sorted := sortEvents_clearedBefore ht ev
  constructor
  · rintro rfl
    exact ⟨sortEvents_perm c ev, sorted⟩
  · rintro ⟨perm, horder⟩
    exact eq_of_clearedBefore horder sorted (perm.trans (sortEvents_perm c ev).symm)

/-- Settles O16: the sequencer's run is the frame stream, entry by entry. -/
theorem sequencerEmitsTheFrameStream : Obligations.SequencerEmitsTheFrameStream := by
  unfold Obligations.SequencerEmitsTheFrameStream
  intro s hupc he hsigma
  have next := nextUop_iterate_frameStream hupc he hsigma
  refine ⟨?_, fun n => ⟨next n, fun i hi => ?_⟩⟩
  · rw [← emits_frameStream hupc he hsigma, emits_length, hupc]; rfl
  · rw [Function.iterate_succ_apply']
    exact performEntry_port_tau ((next n).trans hi)

/-- Settles O17: each kind of entry the sequencer emits. -/
theorem sequencerPerformsByExec : Obligations.SequencerPerformsByExec := by
  unfold Obligations.SequencerPerformsByExec
  exact fun s i h => performEntry_exec h

/-- Settles O18: the ticks of the falling edges telescope to the period, and no WAIT exceeds the sum. -/
theorem waitOperandsSumToThePeriod : Obligations.WaitOperandsSumToThePeriod := by
  unfold Obligations.WaitOperandsSumToThePeriod
  intro c evs _
  have hper := clampEvents_dur_le c evs
  refine ⟨fun n hn => ?_, frameStream_waits c _, frameStream_ticks hper⟩
  have le := wait_le_period hper hn
  exact ⟨le, fun narrow => decide_eq_true (le.trans narrow)⟩

/-- Settles O19: the edges of the stream are the rises at 0 and the falls at the events' durations. -/
theorem edgesFallAtTheirDurations : Obligations.EdgesFallAtTheirDurations := by
  unfold Obligations.EdgesFallAtTheirDurations
  intro c ev
  refine ⟨fun τ p m h => ?_, fun k => ?_, fun k => ?_, fun τ p m h => ?_⟩
  · obtain ⟨_, instant, -⟩ := (pset_mem_frameStream c ev τ p m).mp h
    exact instant
  · exact (pset_mem_frameStream c ev _ _ _).mpr ⟨k, rfl, rfl, rfl⟩
  · exact (pclr_mem_frameStream c ev _ _ _).mpr ⟨k, rfl, rfl, rfl⟩
  · obtain ⟨k, instant, port, mask⟩ := (pclr_mem_frameStream c ev τ p m).mp h
    exact ⟨k, port, mask, instant⟩

/-- Settles O20: the last fall of the sorted order has the longest duration; at the defaults that is 600 or 1500. -/
theorem paddingIsWhatTheLongestPulseLeaves : Obligations.PaddingIsWhatTheLongestPulseLeaves := by
  unfold Obligations.PaddingIsWhatTheLongestPulseLeaves
  constructor
  · intro c evs _
    obtain ⟨k, padding, longest⟩ := frameStream_getLast c (clampEvents c evs)
    exact ⟨_, k, padding, longest, rfl⟩
  · intro pat
    obtain ⟨k, padding, longest⟩ := frameStream_getLast Config.reference
      (clampEvents Config.reference (expand Config.reference pat))
    have clamp := clampEvents_expand_dur (c := Config.reference) (by decide) pat
    simp only [clamp] at longest
    rw [padding, clamp, longest_reference pat k longest]
    split <;> rfl

/-- Settles O21: the stream in any sorted order, read one line at a time. -/
theorem microOpsGiveTheClosedForm : Obligations.MicroOpsGiveTheClosedForm := by
  unfold Obligations.MicroOpsGiveTheClosedForm
  exact fun c ev order tau perm sorted => portsByStream_eq_closedForm c ev tau perm sorted

/-- Settles O22: what `startFrame` does, from the state with the pattern captured. -/
theorem renderFrameStartsAFrame : Obligations.RenderFrameStartsAFrame := by
  unfold Obligations.RenderFrameStartsAFrame
  intro s pat hr
  have started := startFrame_spec ({ s with pat := pat } : State) (clampEvents s.cfg (expand s.cfg pat))
  refine ⟨_, execRenderFrame_ready hr pat, started.pat, started.ev, started.busy, started.tick, started.done, ?_, ?_,
    ?_⟩
  · rw [State.ready, started.busy, started.tick, started.surroundings.cfg]
    rw [Nat.zero_add, BEq.comm]; rfl
  · rw [started.sigma, started.surroundings.cfg, started.ev]
  · obtain ⟨cfg, pre, result, now, resetAt, host, bench⟩ := started.surroundings
    exact ⟨cfg, pre, result, now, resetAt, host, bench⟩

/-- Settles O23: the started frame meets the invariant, so its lines are the closed form at instant 0. -/
theorem renderFrameRaisesAllLines : Obligations.RenderFrameRaisesAllLines := by
  unfold Obligations.RenderFrameRaisesAllLines
  intro s pat h hr
  have started := startFrame_spec ({ s with pat := pat } : State) (clampEvents s.cfg (expand s.cfg pat))
  have captured : ({ s with pat := pat } : State).Inv := h.withOthers pat s.done s.pre s.now s.resetAt s.host
  have inv := captured.startFrame hr (clampEvents_dur_le s.cfg (expand s.cfg pat))
  have lines := inv.frame_ports started.busy
  simp only [started.tick] at lines
  refine ⟨_, execRenderFrame_ready hr pat, lines .A, lines .B, fun shortest => ?_⟩
  have pulse : ∀ k, 0 < ((clampEvents s.cfg (expand s.cfg pat)).get k).dur := fun k => by
    rw [clampEvents_expand_dur h.valid]
    exact shortest.trans (expand_dur_bounds h.valid pat k).1
  have high : ∀ p, State.port _ p = 0b111#3 := fun p => by
    rw [lines p, started.ev]; exact closedForm_expand_high h.valid pat p pulse
  exact ⟨high .A, high .B⟩

/-- Settles O24: what `advance` does inside a frame. -/
theorem renderFrameWaitsWhileNotReady : Obligations.RenderFrameWaitsWhileNotReady := by
  unfold Obligations.RenderFrameWaitsWhileNotReady
  intro s pat hr
  obtain ⟨hb, he⟩ := inFrame_of_not_ready hr
  have adv := advance_spec s
  have goesOn : s.advance.t = s.nextTick ∧ s.advance.busy = true := by
    rw [adv.tick, adv.busy, he, hb]; exact ⟨rfl, rfl⟩
  exact ⟨_, execRenderFrame_held hr pat, goesOn.1, goesOn.2, adv.done.trans he, adv.pat, adv.ev, adv.sigma,
    adv.surroundings⟩

/-- Settles O25: the host's command reaches `exec` at a boundary without reset. -/
theorem stepRunsTheOfferedCommand : Obligations.StepRunsTheOfferedCommand := by
  unfold Obligations.StepRunsTheOfferedCommand
  exact fun s w i hv hb hrst ho hi => step_offeredCommand hv hb hrst ho hi

/-- Settles O33: the host's side of a step, for each form of an offer. -/
theorem offerStaysUntilAccepted : Obligations.OfferStaysUntilAccepted := by
  unfold Obligations.OfferStaysUntilAccepted
  constructor
  · intro s start w rest hv hb hhost due
    have ho := offer_of_due hhost due (.inl rfl)
    obtain ⟨t, hstep, ht⟩ := step_host hv hb
    refine ⟨acceptedCommand_eq ho, t, hstep, ?_⟩
    rw [ht, accepts_eq_cmdReady ho, hhost, movesAfter_offer due]
  · intro s start last w rest hv hb hhost due
    have ho := offer_of_due hhost due (.inr ⟨last, rfl⟩)
    obtain ⟨t, hstep, ht⟩ := step_host hv hb
    refine ⟨t, hstep, ?_⟩
    rw [ht, accepts_eq_cmdReady ho, hhost, movesAfter_offerUntil due]

/-- Settles O46: the block is idle after the boundary, and an idle state of the invariant has `t` 0 and every line low. -/
theorem idleUntilACommand : Obligations.IdleUntilACommand := by
  unfold Obligations.IdleUntilACommand
  intro s h hr ho
  obtain ⟨t, hstep, hboundary⟩ := step_boundary_cases h.valid (onBench_inService h.inService)
  have idle := hboundary.idle_of_no_command hr ho
  have inv := hboundary.inv h
  exact ⟨t, hstep, idle, inv.idle_t idle, inv.idle_lines idle⟩
end

section
/-! The port and wait micro-operations run on their own (R94 to R98): where a write to a port leaves the state as it is,
the word a test bench runs, and a frame's boundary before its next micro-operation is due (R99). -/

namespace Sys2Proof.Machine

/-- Writing a port's own slice back changes nothing. -/
theorem setPort_port_self (s : State) (p : Port) : s.setPort p (s.port p) = s := by
  cases p <;> rfl

/-- A write to a port changes no field but the slices (R38). -/
theorem onlyLinesChange_setPort (s : State) (p : Port) (v : Slice) : s.onlyLinesChange (s.setPort p v) := rfl

/-- Bits already 1 stay 1 (R95). -/
theorem setBits_of_set {s : State} {p : Port} {m : Slice} (h : s.port p ||| m = s.port p) : s.setBits p m = s := by
  rw [State.setBits, h, setPort_port_self]

/-- Bits already 0 stay 0 (R96). -/
theorem clearBits_of_clear {s : State} {p : Port} {m : Slice} (h : s.port p &&& ~~~m = s.port p) :
    s.clearBits p m = s := by
  rw [State.clearBits, h, setPort_port_self]

theorem setBits_setBits (s : State) (p : Port) (m : Slice) : (s.setBits p m).setBits p m = s.setBits p m :=
  setBits_of_set (by rw [port_setBits_self, BitVec.or_assoc, BitVec.or_self])

theorem clearBits_clearBits (s : State) (p : Port) (m : Slice) : (s.clearBits p m).clearBits p m = s.clearBits p m :=
  clearBits_of_clear (by rw [port_clearBits_self, BitVec.and_assoc, BitVec.and_self])

theorem setBits_zero (s : State) (p : Port) : s.setBits p 0#3 = s :=
  setBits_of_set BitVec.or_zero

theorem clearBits_zero (s : State) (p : Port) : s.clearBits p 0#3 = s :=
  clearBits_of_clear (by rw [BitVec.not_zero, BitVec.and_allOnes])

/-- No frame issues a PREAD (R76, R97). -/
theorem nextUop_ne_pread (s : State) (p : Port) (m : Slice) : s.nextUop ≠ some (.pread p m) := by
  intro h
  rcases nextUop_kind h with ⟨_, _, kind⟩ | ⟨_, _, kind⟩ | ⟨_, kind⟩ <;> cases kind

/-- A test bench's word runs as the instruction it decodes to (R94). -/
theorem runMicroOp_decoded {u : UopWord} {i : Instr} (h : decode (.uop u) = .ok i) (s : State) :
    runMicroOp u s = exec i s := by
  unfold runMicroOp; rw [h]

theorem benchStep_empty {s : State} (h : s.bench = some []) : s.benchStep = .next s := by
  unfold State.benchStep; rw [h]

/-- A test bench has the state even with no word left, while no frame is in progress (R94). -/
theorem onBench_of_bench {s : State} {words : List UopWord} (h : s.bench = some words) (hb : s.busy = false) :
    s.onBench = true := by
  rw [State.onBench, h, hb]; rfl

/-- A micro-operation that lies beyond `limit` is not due (R78). -/
theorem due_eq_false_of_lt {s : State} {limit : Nat} (h : limit < s.tau) : s.due limit = false :=
  Bool.eq_false_iff.mpr fun due => h.not_ge ((due_iff s limit).mp due).2

/-- Inside a frame a tick before the next micro-operation moves the tick index alone (R99). -/
theorem advance_before_due {s : State} (hr : s.ready = false) (h : s.nextTick < s.tau) :
    s.advance = { s with t := s.nextTick, done := false } := by
  obtain ⟨hb, he⟩ := inFrame_of_not_ready hr
  rw [advance_running he hb]
  exact performDue_settled (due_eq_false_of_lt h)

end Sys2Proof.Machine
end

section
/-! The obligations on the port micro-operations (42_port_micro_ops.md). -/

open Sys2Proof Sys2Proof.Machine

/-- Settles O34: the frame goes on by one tick, at which no entry of its stream is due. -/
theorem linesHoldDuringAWait : Obligations.LinesHoldDuringAWait := by
  unfold Obligations.LinesHoldDuringAWait
  intro s hv _ hrst hr hwait
  have tick : s.nextInterval.advance = { s.nextInterval with t := s.nextTick, done := false } :=
    advance_before_due (s := s.nextInterval) hr hwait
  exact ⟨_, step_not_ready hv hr, by rw [if_neg (by simp [hrst]), tick]⟩

/-- Settles O11: PSET's row of the opcode map, and the rules of `setBits`. -/
theorem psetSetsTheMaskedBits : Obligations.PsetSetsTheMaskedBits := by
  unfold Obligations.PsetSetsTheMaskedBits
  refine ⟨fun u h => decode_uop_iff_row.mpr (.pset h), fun s p m => ?_, fun s p => ?_⟩
  · exact ⟨s.setBits p m, rfl, port_setBits_self s p m, fun q => port_setBits_other s p q m,
      onlyLinesChange_setPort s p _, congrArg Host.Outcome.next (setBits_setBits s p m)⟩
  · exact congrArg Host.Outcome.next (setBits_zero s p)

/-- Settles O12: PCLR's row of the opcode map, and the rules of `clearBits`. -/
theorem pclrClearsTheMaskedBits : Obligations.PclrClearsTheMaskedBits := by
  unfold Obligations.PclrClearsTheMaskedBits
  refine ⟨fun u h => decode_uop_iff_row.mpr (.pclr h), fun s p m => ?_, fun s p => ?_⟩
  · exact ⟨s.clearBits p m, rfl, port_clearBits_self s p m, fun q => port_clearBits_other s p q m,
      onlyLinesChange_setPort s p _, congrArg Host.Outcome.next (clearBits_clearBits s p m)⟩
  · exact congrArg Host.Outcome.next (clearBits_zero s p)

/-- Settles O13: PREAD's row of the opcode map, its result, and the kinds of entry a frame's stream has. -/
theorem preadReturnsTheMaskedBits : Obligations.PreadReturnsTheMaskedBits := by
  unfold Obligations.PreadReturnsTheMaskedBits
  exact ⟨fun u h => decode_uop_iff_row.mpr (.pread h),
    fun s p m => ⟨s.setResult (s.readBits p m), rfl, setResult_result s _, rfl⟩, nextUop_ne_pread⟩

/-- Settles O14: WAIT's row of the opcode map, and that τ alone is written. -/
theorem waitAdvancesTau : Obligations.WaitAdvancesTau := by
  unfold Obligations.WaitAdvancesTau
  exact ⟨fun u h => decode_uop_iff_row.mpr (.wait h), fun s n => ⟨s.waitTicks n, rfl, waitTicks_tau s n, rfl⟩,
    fun s => rfl⟩

/-- Settles O26: the bench's step on its next word, and with no word left. -/
theorem stepRunsTheBenchMicroOp : Obligations.StepRunsTheBenchMicroOp := by
  unfold Obligations.StepRunsTheBenchMicroOp
  constructor
  · intro s u rest i hv hbench hb hi
    rw [step_bench hv (onBench_of_bench hbench hb), benchStep_word hbench, runMicroOp_decoded hi]
  · intro s hv hbench hb
    rw [step_bench hv (onBench_of_bench hbench hb), benchStep_empty hbench]
end

section
/-! Reset at a boundary (R104, R115), and the clock cycles between two boundaries (R110, R126). -/

namespace Sys2Proof.Machine

/-- Reset is taken before any offer is looked at (R104). -/
theorem step_reset {s : State} (hv : configValid s.cfg = true) (hb : s.onBench = false) (hrst : s.rst = true) :
    step s = .next s.nextInterval.takeReset := by
  rw [step_boundary hv hb, hrst]; rfl

/-- While reset is held `cmd_ready` is 0 (R31). -/
theorem cmdReady_eq_false_of_rst {s : State} (hrst : s.rst = true) : s.cmdReady = false := by
  rw [State.cmdReady, hrst]; rfl

theorem accepts_eq_false_of_cmdReady {s : State} (h : s.cmdReady = false) : s.accepts = false := by
  rw [State.accepts, h, Bool.false_and]

/-- A boundary does not count on the prescaler: it keeps it, or reset clears it (R115). -/
theorem BoundaryCase.pre {s t : State} (hc : BoundaryCase s t) : t.pre = if s.rst then 0 else s.pre := by
  cases hc with
  | reset h => rw [if_pos h]; rfl
  | accepted w h _ _ _ => rw [if_neg (by simp [h])]; exact (startFrame_spec _ _).surroundings.pre
  | harness evs h _ _ => rw [if_neg (by simp [h])]; exact (startFrame_spec _ _).surroundings.pre
  | advanced h _ => rw [if_neg (by simp [h])]; exact (advance_spec _).surroundings.pre

theorem clockCycle_counting {s : State} (hv : configValid s.cfg = true) (hb : s.onBench = false)
    (below : s.pre < Config.prescaleTop) : s.clockCycle = .next { s with pre := s.pre + 1 } := by
  simp [State.clockCycle, hb, hv, below]

theorem clockCycle_last {s : State} (hb : s.onBench = false) (top : s.pre = Config.prescaleTop) :
    s.clockCycle = step { s with pre := 0 } := by
  simp [State.clockCycle, hb, top]

theorem clockCycles_succ_of_next {s s' : State} (h : s.clockCycle = .next s') (n : Nat) :
    s.clockCycles (n + 1) = s'.clockCycles n := by
  simp only [State.clockCycles, h]

theorem clockCycles_one (s : State) : s.clockCycles 1 = s.clockCycle := by
  simp only [State.clockCycles]; cases s.clockCycle <;> rfl

/-- The cycles left to the prescaler's top only count; the one at the top is the tick boundary. -/
theorem clockCycles_to_tick (left : Nat) {s : State} (hv : configValid s.cfg = true) (hb : s.onBench = false)
    (hleft : s.pre + left = Config.prescaleTop) : s.clockCycles (left + 1) = step { s with pre := 0 } := by
  induction left generalizing s with
  | zero => rw [clockCycles_one, clockCycle_last hb hleft]
  | succ left ih =>
    rw [clockCycles_succ_of_next (clockCycle_counting hv hb (by omega))]
    exact ih (s := { s with pre := s.pre + 1 }) hv hb (by simp only; omega)

end Sys2Proof.Machine
end

section
/-! The obligations on reset and the clock (60_exceptions.md). -/

open Sys2Proof Sys2Proof.Machine

/-- Settles O29: the boundary is a reset, and with `cmd_ready` 0 the host's offer is not accepted. -/
theorem resetWinsAtABoundary : Obligations.ResetWinsAtABoundary := by
  unfold Obligations.ResetWinsAtABoundary
  intro s hv hb hrst
  have notReady := cmdReady_eq_false_of_rst hrst
  have host : s.nextInterval.takeReset.host = movesAfter s.now false s.host := by
    rw [takeReset_host, nextInterval_host, accepts_eq_false_of_cmdReady notReady]
  exact ⟨notReady, _, step_reset hv hb hrst, rfl, rfl, rfl, rfl, rfl, rfl, rfl, rfl, rfl, rfl, rfl, rfl, host⟩

/-- Settles O36, by induction on the cycles left to the prescaler's top. -/
theorem clockCyclesMakeOneTick : Obligations.ClockCyclesMakeOneTick := by
  unfold Obligations.ClockCyclesMakeOneTick
  intro s hv hb hpre
  have atZero : ({ s with pre := 0 } : State) = s := by rw [← hpre]
  constructor
  · have cycles := clockCycles_to_tick Config.prescaleTop hv hb (by rw [hpre, Nat.zero_add])
    rwa [atZero] at cycles
  · intro t hstep
    obtain ⟨u, hu, hboundary⟩ := step_boundary_cases hv hb
    cases hstep.symm.trans hu
    rw [hboundary.pre, hpre, ite_self]
end

section
/-! The machine as it is built (R115), and a command held from any interval of a frame (R121). -/

namespace Sys2Proof.Machine

theorem build_ok {c : Config} {s : State} (h : build c = .ok s) :
    configValid c = true ∧ s = State.resetFor c 0 [] [] := by
  cases hv : configValid c with
  | false => rw [build_invalid hv] at h; cases h
  | true => rw [build_valid hv] at h; cases h; exact ⟨rfl, rfl⟩

/-- The reset state is idle with all lines low, whatever the host will do. -/
theorem inv_resetFor {c : Config} (hv : configValid c = true) (now : Nat) (resetAt : List Nat)
    (host : List HostMove) : (State.resetFor c now resetAt host).Inv :=
  inv_of_idle rfl hv rfl rfl ⟨rfl, rfl⟩

theorem patternInv_resetFor (c : Config) (now : Nat) (resetAt : List Nat) {host : List HostMove}
    (noHarness : host.all HostMove.isNoHarness = true) : (State.resetFor c now resetAt host).PatternInv where
  noHarness := noHarness
  frame_ev hb := by cases hb

/-- Every tick boundary begins the next interval (R13). -/
theorem BoundaryCase.now {s t : State} (hc : BoundaryCase s t) : t.now = s.now + 1 := by
  cases hc with
  | reset _ => rfl
  | accepted w _ _ _ _ => exact (startFrame_spec _ _).surroundings.now
  | harness evs _ _ _ => exact (startFrame_spec _ _).surroundings.now
  | advanced _ _ => exact (advance_spec _).surroundings.now

theorem step_now {s t : State} (h : s.Inv) (hstep : step s = .next t) : t.now = s.now + 1 := by
  obtain ⟨u, hu, hboundary⟩ := step_boundary_cases h.valid (onBench_inService h.inService)
  cases hstep.symm.trans hu
  exact hboundary.now

/-- From any interval of a frame, the frame's last: `PERIOD_US - t - 1` steps on (R83). -/
theorem run_toFrameEnd {s : State} (h : s.Inv) (hb : s.busy = true)
    (noReset : s.noResetFor (s.cfg.periodUs - s.t - 1)) :
    ∃ u : State, core.run (s.cfg.periodUs - s.t - 1) s = .next u ∧ FrameGoesOn s (s.cfg.periodUs - s.t - 1) u ∧
      u.ending = true := by
  have inFrame := h.frame_t hb
  obtain ⟨u, hrun, on⟩ := run_inFrame h hb (s.cfg.periodUs - s.t - 1) (by omega) noReset
  exact ⟨u, hrun, on, (ending_iff u).mpr ⟨on.busy, by rw [on.tick, on.cfg]; omega⟩⟩

end Sys2Proof.Machine
end

section
/-! The obligations on reset and hazards (70_reset_and_hazards.md). -/

open Sys2Proof Sys2Proof.Machine

/-- Settles O44: the offer stays while the frame runs to its last interval, where the block is ready and accepts it. -/
theorem heldCommandStartsAtTheFrameBoundary : Obligations.HeldCommandStartsAtTheFrameBoundary := by
  unfold Obligations.HeldCommandStartsAtTheFrameBoundary
  intro s start w rest h hhost due hw
  constructor
  · intro hb noReset
    have inFrame := h.frame_t hb
    obtain ⟨u, hrun, on, he⟩ := run_toFrameEnd h hb fun i hi => noReset i (by omega)
    have held : u.host = ⟨start, .offer w⟩ :: rest :=
      (on.host (by rw [hhost]; rintro m ⟨⟩; exact ⟨w, rfl⟩)).trans hhost
    obtain ⟨v, hstep, -, hbusy, htick, hpat, hdone, hmoves, -, -⟩ :=
      step_heldCommand on.inv ((ready_iff u).mpr (.inr he)) (on.rst_eq_false (noReset _ (by omega))) held
        (by rw [on.now]; omega) hw
    have steps : s.cfg.periodUs - s.t - 1 + 1 = s.cfg.periodUs - s.t := by omega
    have whole := run_succ hrun hstep
    rw [steps] at whole
    exact ⟨v, whole, by rw [step_now on.inv hstep, on.now, Nat.add_assoc, steps], hbusy, htick, hpat,
      hdone.trans he, hmoves⟩
  · intro hb noReset
    obtain ⟨u, hstep, -, hbusy, htick, hpat, -, hmoves, -, -⟩ :=
      step_heldCommand h ((ready_iff s).mpr (.inl hb)) ((rst_eq_false_iff s).mpr (noReset 0 Nat.one_pos)) hhost due hw
    exact ⟨u, run_one hstep, hbusy, htick, hpat, hmoves⟩

/-- Settles O30: each field of the reset state, and no reset in its interval. -/
theorem resetLeavesTheBlockIdle : Obligations.ResetLeavesTheBlockIdle :=
  ⟨rfl, rfl, rfl, rfl, rfl⟩

/-- Settles O37: a machine that is built is in the reset state of a valid configuration, `State.reset` that of the
defaults. -/
theorem resetMeetsTheInvariant : Obligations.ResetMeetsTheInvariant := by
  unfold Obligations.ResetMeetsTheInvariant
  have built : ∀ (c : Config) (s : State), build c = .ok s → s.Inv ∧ s.PatternInv := by
    intro c s h
    obtain ⟨hv, rfl⟩ := build_ok h
    exact ⟨inv_resetFor hv 0 [] [], patternInv_resetFor c 0 [] rfl⟩
  obtain ⟨inv, patternInv⟩ := built Config.reference State.reset rfl
  exact ⟨inv, patternInv, built⟩
end
